-- ==== Sys2Proof/Word.lean ====
section
/-! DEFINITION. The word types of the block: bytes, and the 16-, 32- and 64-bit values the spec names (R13: every value
is unsigned, bit 0 is the least significant bit). -/

namespace Sys2Proof

/-- One byte of a register group, of a packet or of guest memory. -/
abbrev Byte := BitVec 8
/-- A 32-bit register value. -/
abbrev Word32 := BitVec 32
/-- A 64-bit register value, guest-physical address, table quadword or MSI address. -/
abbrev Word64 := BitVec 64

end Sys2Proof
end

