-- ==== Sys2Proof/Config.lean ====
section
/-! DEFINITION. What one implementation fixes: the parameters of 00_scope.md rule R11, in two records that the device
carries (R12: "immutable-after-construction"). `Params` derives the capability snapshot (Machine/Caps.lean); `Windows` is
the extent of the register file, which holds it (Machine/Registers.lean). -/

namespace Sys2Proof

/-- The parameters of R11 but the window extents (`Windows`), and the one reading that the spec's files settle both ways
(`bulkEarlier`). REG_LAYOUT is the table of Machine/Registers.lean, which R11 gives as "the table given"
(assumption 2). -/
structure Params where
  /-- P_HAW, host address width in bits (32 to 52). -/
  haw : Nat
  /-- P_MGAW, maximum guest address width in bits (21 to 57). -/
  mgaw : Nat
  /-- P_VER_MAJOR. -/
  verMajor : BitVec 4
  /-- P_VER_MINOR. -/
  verMinor : BitVec 4
  /-- P_ND, number-of-domains encoding (0 to 6). -/
  nd : BitVec 3
  /-- P_SLLPS: bit 0, 2 MiB pages; bit 1, 1 GiB pages. -/
  sllps : BitVec 2
  /-- P_PT, pass-through supported. -/
  pt : Bool
  /-- P_EIM, extended interrupt mode supported. -/
  eim : Bool
  /-- P_ADMS, abort-DMA mode supported. -/
  adms : Bool
  /-- P_PDS, page-drain bit valid in wait descriptors. -/
  pds : Bool
  /-- P_IR_LEVEL, data bit 14 of a remapped MSI. -/
  irLevel : Bool
  /-- IRQ_WINDOW, its first address. -/
  irqWindowFirst : Word64
  /-- IRQ_WINDOW, its last address. -/
  irqWindowLast : Word64
  /-- FR_TTM_SCALABLE (R200, an OPEN code). -/
  frTtmScalable : Byte
  /-- FR_TTM_ABORT (R200, an OPEN code). -/
  frTtmAbort : Byte
  /-- FR_TTM_RESERVED (R200, an OPEN code). -/
  frTtmReserved : Byte
  /-- FR_OUT_IN_WINDOW (R200, an OPEN code). -/
  frOutInWindow : Byte
  /-- FR_IR_POSTED (R200, an OPEN code). -/
  frIrPosted : Byte
  /-- Not of R11: does a failing `translateBulk` return the outputs computed before the failure? 92 D46 says "earlier outputs
  are returned" (true), R330, which cites it, "not returned" (false); the model has both (DESIGN CHOICE, assumption 27). -/
  bulkEarlier : Bool
  deriving DecidableEq, Repr

/-- The register window extents of R11 (R30, R130, D2): group 0 is `[0, G0_END)`, group 1 is `[G1_FIRST, G1_END)`, and the
MMIO region has `MMIO_SIZE` bytes. R11 states no range: that the extents hold the whole register map is DEDUCED
(assumption 2). -/
structure Windows where
  /-- G0_END. -/
  g0End : Nat
  /-- G1_FIRST. -/
  g1First : Nat
  /-- G1_END. -/
  g1End : Nat
  /-- MMIO_SIZE. -/
  mmioSize : Nat
  /-- Group 0 holds the registers of R32 up to MTRR_PHYSMASK9, group 1 those from VCCAP to FRCD_HI (R30: every register is
  a view of bytes of one group); the groups do not meet, they lie inside the MMIO region, and an offset in it has at most
  12 bits (R130, R171). -/
  holdMap : 0x220 ≤ g0End ∧ g0End ≤ g1First ∧ g1First ≤ 0xE00 ∧ 0xE80 ≤ g1End ∧ g1End ≤ mmioSize ∧ mmioSize ≤ 0x1000
  deriving DecidableEq, Repr

/-- Is there a register byte at an offset: does a group cover it? (R30) -/
abbrev Windows.holds (w : Windows) (off : Nat) : Prop := off < w.g0End ∨ (w.g1First ≤ off ∧ off < w.g1End)

/-- Does one group cover the offsets `[off, off + n)`? (R30) -/
abbrev Windows.holdsSpan (w : Windows) (off n : Nat) : Prop := off + n ≤ w.g0End ∨ (w.g1First ≤ off ∧ off + n ≤ w.g1End)

end Sys2Proof
end

