-- ==== Sys2Proof/Machine/Bytes.lean ====
section
/-! DEFINITION. Byte order and bit fields: R13 (bit numbering, fields) and R140 (little-endian everywhere). -/

namespace Sys2Proof.Machine

/-- Byte `k` of a value, byte 0 the least significant (R140). -/
def byteOf {w : Nat} (v : BitVec w) (k : Nat) : Byte := v.extractLsb' (8 * k) 8

/-- Two bytes read little-endian (R140). -/
def le16 (b0 b1 : Byte) : BitVec 16 := b1 ++ b0

/-- Four bytes read little-endian (R140). -/
def le32 (b0 b1 b2 b3 : Byte) : Word32 := b3 ++ b2 ++ b1 ++ b0

/-- Eight bytes read little-endian (R140): the low four are bits 31:0. -/
def le64 (b0 b1 b2 b3 b4 b5 b6 b7 : Byte) : Word64 := le32 b4 b5 b6 b7 ++ le32 b0 b1 b2 b3

/-- The two bytes of a 16-bit value, least significant first. -/
def bytes16 (v : BitVec 16) : List Byte := [byteOf v 0, byteOf v 1]

/-- The four bytes of a 32-bit value, least significant first. -/
def bytes32 (v : Word32) : List Byte := [byteOf v 0, byteOf v 1, byteOf v 2, byteOf v 3]

/-- The eight bytes of a 64-bit value, least significant first. -/
def bytes64 (v : Word64) : List Byte :=
  [byteOf v 0, byteOf v 1, byteOf v 2, byteOf v 3, byteOf v 4, byteOf v 5, byteOf v 6, byteOf v 7]

/-- The 64-bit value of the first eight bytes of a list, a missing byte read as 0. -/
def le64OfList (bs : List Byte) : Word64 :=
  le64 (bs.getD 0 0) (bs.getD 1 0) (bs.getD 2 0) (bs.getD 3 0) (bs.getD 4 0) (bs.getD 5 0) (bs.getD 6 0) (bs.getD 7 0)

/-- `v` with bit `i` set to `b`, every other bit kept (the field assignment of R14, for one bit). -/
def setBit {w : Nat} (v : BitVec w) (i : Nat) (b : Bool) : BitVec w :=
  if b then v ||| (1#w <<< i) else v &&& ~~~(1#w <<< i)

/-- The field of `n` bits of `v` from bit `lo` (R13). -/
def field {w : Nat} (v : BitVec w) (lo n : Nat) : BitVec n := v.extractLsb' lo n

/-- `v` with the field of `n` bits from bit `lo` replaced by `x` (the field assignment of R14). -/
def setField {w n : Nat} (v : BitVec w) (lo : Nat) (x : BitVec n) : BitVec w :=
  (v &&& ~~~((BitVec.allOnes n).setWidth w <<< lo)) ||| (x.setWidth w <<< lo)

/-- 1 for true, 0 for false, as a bit pattern of width `w`. -/
def boolBits (w : Nat) (b : Bool) : BitVec w := if b then 1#w else 0#w

end Sys2Proof.Machine
end

