-- ==== Sys2Proof/Machine/Caps.lean ====
section
/-! DEFINITION. The capability snapshot: every value R12, R40, R44 and R45 derive from the parameters, and the
parameters' ranges and defaults (R11). -/

namespace Sys2Proof.Machine

/-- The defaults of R11 (the values the test vectors of 95_test_vectors.md use, "not claims about the block"); `bulkEarlier` has
the value of 92 D46 (DESIGN CHOICE, assumption 27). -/
def defaultParams : Params where
  haw := 39
  mgaw := 48
  verMajor := 1
  verMinor := 0
  nd := 2
  sllps := 0b01
  pt := true
  eim := true
  adms := false
  pds := false
  irLevel := true
  irqWindowFirst := 0xFEE00000
  irqWindowLast := 0xFEEFFFFF
  frTtmScalable := 0x30
  frTtmAbort := 0x31
  frTtmReserved := 0x32
  frOutInWindow := 0x0E
  frIrPosted := 0x24
  bulkEarlier := true

/-- The default window extents of R11 (D2). -/
def defaultWindows : Windows where
  g0End := 0x220
  g1First := 0xE00
  g1End := 0xE80
  mmioSize := 0x1000
  holdMap := by decide

/-- The ranges of R11. -/
def paramsOk (p : Params) : Bool :=
  decide (32 ≤ p.haw) && decide (p.haw ≤ 52) && decide (21 ≤ p.mgaw) && decide (p.mgaw ≤ 57) && decide (p.nd.toNat ≤ 6)

/-- HAW_MASK (R12). -/
def hawMask (p : Params) : Word64 := BitVec.ofNat 64 (2 ^ p.haw - 1) &&& ~~~0xFFF#64

/-- MGAW_INVALID_MASK (R12). -/
def mgawInvalidMask (p : Params) : Word64 := ~~~(BitVec.ofNat 64 (2 ^ p.mgaw - 1))

/-- The width of a domain ID, `4 + 2 * P_ND` bits (R11, R184). -/
def didWidth (p : Params) : Nat := 4 + 2 * p.nd.toNat

/-- CTX_QW1_VALID (R12, D47). -/
def ctxQw1Valid (p : Params) : Word64 := 0x7F#64 ||| (BitVec.ofNat 64 (2 ^ didWidth p - 1) <<< 8)

/-- MAX_LEVEL (R12, D10); the quotient is rounded up. -/
def maxLevel (p : Params) : Nat := min 5 (max 3 ((p.mgaw - 12 + 8) / 9))

/-- SAGAW (R44): bit `k` is set for `k` from 1 to MAX_LEVEL - 2. -/
def sagaw (p : Params) : Word64 :=
  boolBits 64 (decide (1 ≤ maxLevel p - 2)) <<< 1 ||| boolBits 64 (decide (2 ≤ maxLevel p - 2)) <<< 2
    ||| boolBits 64 (decide (3 ≤ maxLevel p - 2)) <<< 3

/-- VER (R40). -/
def verValue (p : Params) : Word32 := p.verMajor.setWidth 32 <<< 4 ||| p.verMinor.setWidth 32

/-- CAP (R44). -/
def capValue (p : Params) : Word64 :=
  p.nd.setWidth 64 ||| sagaw p <<< 8 ||| BitVec.ofNat 64 (p.mgaw - 1) <<< 16 ||| 0xE7#64 <<< 24
    ||| p.sllps.setWidth 64 <<< 34

/-- ECAP (R45). -/
def ecapValue (p : Params) : Word64 :=
  1#64 <<< 1 ||| 1#64 <<< 3 ||| boolBits 64 p.eim <<< 4 ||| boolBits 64 p.pt <<< 6 ||| 0xE5#64 <<< 8
    ||| boolBits 64 p.pds <<< 42 ||| boolBits 64 p.adms <<< 50

end Sys2Proof.Machine
end

