-- ==== Sys2Proof/Machine/Registers.lean ====
section
/-! DEFINITION. The register file (R30), the register map with its masks and reset values (R31, R32), and the register
primitives RegReadRaw, RegWriteRaw and the masked commit of RegWriteSem (R240 to R243). -/

namespace Sys2Proof.Machine

/-- The two byte arrays of R30, the only storage of register values, with their extents (R11). Group 0 has `G0_END` bytes,
group 1 has `G1_END - G1_FIRST`. -/
structure RegFile where
  win : Windows
  g0 : Vector Byte win.g0End
  g1 : Vector Byte (win.g1End - win.g1First)
  deriving DecidableEq, Repr

/-- Byte `i` of a group. -/
def groupGet {n : Nat} (g : Vector Byte n) (i : Nat) : Byte := g.toList.getD i 0

/-- A group with byte `i` replaced. -/
def groupSet {n : Nat} (g : Vector Byte n) (i : Nat) (b : Byte) : Vector Byte n := ⟨⟨g.toList.set i b⟩, by simp⟩

/-- The register byte at an MMIO offset (R30); 0 outside both groups, where no access is accepted (R131). -/
def RegFile.byte (r : RegFile) (off : Nat) : Byte :=
  if off < r.win.g0End then groupGet r.g0 off
  else if r.win.g1First ≤ off then groupGet r.g1 (off - r.win.g1First)
  else 0

/-- The register file with the byte at an MMIO offset replaced (R30). -/
def RegFile.setByte (r : RegFile) (off : Nat) (b : Byte) : RegFile where
  win := r.win
  g0 := if off < r.win.g0End then groupSet r.g0 off b else r.g0
  g1 := if r.win.g1First ≤ off then groupSet r.g1 (off - r.win.g1First) b else r.g1

/-- RegReadRaw(off, 4) (R240). -/
def RegFile.read32 (r : RegFile) (off : Nat) : Word32 :=
  le32 (r.byte off) (r.byte (off + 1)) (r.byte (off + 2)) (r.byte (off + 3))

/-- RegReadRaw(off, 8) (R240). -/
def RegFile.read64 (r : RegFile) (off : Nat) : Word64 := r.read32 (off + 4) ++ r.read32 off

/-- RegWriteRaw(off, 4, v) (R241). -/
def RegFile.write32 (r : RegFile) (off : Nat) (v : Word32) : RegFile :=
  (((r.setByte off (byteOf v 0)).setByte (off + 1) (byteOf v 1)).setByte (off + 2) (byteOf v 2)).setByte (off + 3)
    (byteOf v 3)

/-- RegWriteRaw(off, 8, v) (R241). -/
def RegFile.write64 (r : RegFile) (off : Nat) (v : Word64) : RegFile :=
  (r.write32 off (v.extractLsb' 0 32)).write32 (off + 4) (v.extractLsb' 32 32)

/-- The registers of the map of R32, the stubs of R69 among them. -/
inductive Reg where
  | ver | cap | ecap | gcmd | gsts | rtaddr | ccmd | fsts | fectl | fedata | feaddr | feuaddr
  | aflog | pmen | plmbase | plmlimit | phmbase | phmlimit
  | iqh | iqt | iqa | ics | iectl | iedata | ieaddr | ieuaddr | iqercd | irta
  | pqh | pqt | pqa | prs | pectl | pedata | peaddr | peuaddr
  | mtrrcap | mtrrdef | mtrrFix64k00000 | mtrrFix16k80000 | mtrrFix16kA0000
  | mtrrFix4k (n : Fin 8) | mtrrPhysBase (n : Fin 10) | mtrrPhysMask (n : Fin 10)
  | vccap | vcmd | vcrsp | iva | iotlb | frcdLo | frcdHi
  deriving DecidableEq, Repr

/-- The MMIO offset of a register (R32, R48 to R68). -/
def Reg.off : Reg → Nat
  | .ver => 0x000 | .cap => 0x008 | .ecap => 0x010 | .gcmd => 0x018 | .gsts => 0x01C | .rtaddr => 0x020
  | .ccmd => 0x028 | .fsts => 0x034 | .fectl => 0x038 | .fedata => 0x03C | .feaddr => 0x040 | .feuaddr => 0x044
  | .aflog => 0x058 | .pmen => 0x064 | .plmbase => 0x068 | .plmlimit => 0x06C | .phmbase => 0x070 | .phmlimit => 0x078
  | .iqh => 0x080 | .iqt => 0x088 | .iqa => 0x090 | .ics => 0x09C | .iectl => 0x0A0 | .iedata => 0x0A4
  | .ieaddr => 0x0A8 | .ieuaddr => 0x0AC | .iqercd => 0x0B0 | .irta => 0x0B8
  | .pqh => 0x0C0 | .pqt => 0x0C8 | .pqa => 0x0D0 | .prs => 0x0DC | .pectl => 0x0E0 | .pedata => 0x0E4
  | .peaddr => 0x0E8 | .peuaddr => 0x0EC
  | .mtrrcap => 0x100 | .mtrrdef => 0x108 | .mtrrFix64k00000 => 0x120 | .mtrrFix16k80000 => 0x128
  | .mtrrFix16kA0000 => 0x130 | .mtrrFix4k n => 0x138 + 8 * n.val | .mtrrPhysBase n => 0x180 + 16 * n.val
  | .mtrrPhysMask n => 0x188 + 16 * n.val
  | .vccap => 0xE00 | .vcmd => 0xE10 | .vcrsp => 0xE20 | .iva => 0xE50 | .iotlb => 0xE58 | .frcdLo => 0xE70
  | .frcdHi => 0xE78

/-- The width of a register in bytes (R32). -/
def Reg.size : Reg → Nat
  | .ver | .gcmd | .gsts | .fsts | .fectl | .fedata | .feaddr | .feuaddr | .pmen | .plmbase | .plmlimit | .ics | .iectl
  | .iedata | .ieaddr | .ieuaddr | .prs | .pectl | .pedata | .peaddr | .peuaddr => 4
  | _ => 8

/-- The registers with a bit that a guest write can change; every other register and every hole has masks 0
(R32, R69). -/
def maskedRegs : List Reg :=
  [.rtaddr, .ccmd, .fsts, .fectl, .fedata, .feaddr, .feuaddr, .iqt, .iqa, .ics, .iectl, .iedata, .ieaddr, .ieuaddr,
    .irta, .iva, .iotlb, .frcdHi]

/-- The RW mask of a register (R32); 32-bit registers use bits 31:0. -/
def Reg.rwMask (p : Params) : Reg → Word64
  | .rtaddr => hawMask p ||| 0xC00
  | .ccmd => 0xE0000003FFFFFFFF
  | .fectl => 0x80000000
  | .fedata => if p.eim then 0xFFFFFFFF else 0x0000FFFF
  | .feaddr => 0xFFFFFFFC
  | .feuaddr => if p.eim then 0xFFFFFFFF else 0
  | .iqt => 0x000000000007FFF0
  | .iqa => hawMask p ||| 0x7
  | .iectl => 0x80000000
  | .iedata => if p.eim then 0xFFFFFFFF else 0x0000FFFF
  | .ieaddr => 0xFFFFFFFC
  | .ieuaddr => if p.eim then 0xFFFFFFFF else 0
  | .irta => hawMask p ||| (if p.eim then 0x800 else 0) ||| 0xF
  | .iva => 0xFFFFFFFFFFFFF07F
  | .iotlb => 0xB003FFFF00000000
  | _ => 0

/-- The RW1C mask of a register (R32). -/
def Reg.rw1cMask : Reg → Word64
  | .fsts => 0x0000007D
  | .ics => 0x00000001
  | .frcdHi => 0x8000000000000000
  | _ => 0

/-- Does a register hold the byte at an MMIO offset? -/
def Reg.covers (x : Reg) (off : Nat) : Bool := decide (x.off ≤ off) && decide (off < x.off + x.size)

/-- The byte of the RW mask table at an MMIO offset (R31). -/
def rwByte (p : Params) (off : Nat) : Byte :=
  match maskedRegs.find? (·.covers off) with
  | some x => byteOf (x.rwMask p) (off - x.off)
  | none => 0

/-- The byte of the RW1C mask table at an MMIO offset (R31). -/
def rw1cByte (off : Nat) : Byte :=
  match maskedRegs.find? (·.covers off) with
  | some x => byteOf x.rw1cMask (off - x.off)
  | none => 0

/-- RWMask(off, 4) (R242). -/
def rwMask32 (p : Params) (off : Nat) : Word32 :=
  le32 (rwByte p off) (rwByte p (off + 1)) (rwByte p (off + 2)) (rwByte p (off + 3))

/-- RW1CMask(off, 4) (R242). -/
def rw1cMask32 (off : Nat) : Word32 :=
  le32 (rw1cByte off) (rw1cByte (off + 1)) (rw1cByte (off + 2)) (rw1cByte (off + 3))

/-- RWMask(off, 8) (R242). -/
def rwMask64 (p : Params) (off : Nat) : Word64 := rwMask32 p (off + 4) ++ rwMask32 p off

/-- RW1CMask(off, 8) (R242). -/
def rw1cMask64 (off : Nat) : Word64 := rw1cMask32 (off + 4) ++ rw1cMask32 off

/-- The masked value of R242 (grouped as 90_conflicts.md C1 and D4 say): read-only bits kept, writable bits merged,
RW1C bits that software wrote 1 cleared. -/
def commit {w : Nat} (rw rw1c prior v : BitVec w) : BitVec w := ((prior &&& ~~~rw) ||| (v &&& rw)) &&& ~~~(v &&& rw1c)

/-- RegWriteSem(off, 4, v) (R242): the register file after the masked write. -/
def RegFile.semWrite32 (p : Params) (r : RegFile) (off : Nat) (v : Word32) : RegFile :=
  r.write32 off (commit (rwMask32 p off) (rw1cMask32 off) (r.read32 off) v)

/-- RegWriteSem(off, 8, v) (R242): the register file after the masked write. -/
def RegFile.semWrite64 (p : Params) (r : RegFile) (off : Nat) (v : Word64) : RegFile :=
  r.write64 off (commit (rwMask64 p off) (rw1cMask64 off) (r.read64 off) v)

/-- The register file of the extents `w` with every byte 0. -/
def zeroRegs (w : Windows) : RegFile := ⟨w, Vector.replicate _ 0, Vector.replicate _ 0⟩

/-- The register file after reset (R540 and the reset column of R32, D36). -/
def resetRegs (p : Params) (w : Windows) : RegFile :=
  (((((zeroRegs w).write32 Reg.ver.off (verValue p)).write64 Reg.cap.off (capValue p)).write64 Reg.ecap.off
    (ecapValue p)).write32 Reg.fectl.off 0x80000000).write32 Reg.iectl.off 0x80000000

end Sys2Proof.Machine
end

