-- ==== Sys2Proof/Syntax.lean ====
section
/-! DEFINITION. The operations of the block: one constructor per row of spec/opcode_table.json (R170, R173), with the
operands the row's rule gives it. -/

namespace Sys2Proof

/-- The address type of a DMA request (R75, R290). -/
inductive AddrType where
  | untranslated
  | translationReq
  | translated
  deriving DecidableEq, Repr

/-- A set of permissions, a subset of READ and WRITE (R75). -/
structure Perm where
  read : Bool
  write : Bool
  deriving DecidableEq, Repr

/-- An invalidation descriptor as the block reads it: its two quadwords (R210). -/
structure Desc where
  qw0 : Word64
  qw1 : Word64
  deriving DecidableEq, Repr

/-- An operation of the block. An MMIO operation carries the 12-bit offset of R171; a GCMD row is one command bit of a
written GCMD word (R172: set or cleared), so it carries nothing; a request carries its call's arguments (R290, R330,
R360); a descriptor carries its quadwords (R210). -/
inductive Instr where
  | mmioR32 (off : BitVec 12)
  | mmioR64 (off : BitVec 12)
  | mmioW32 (off : BitVec 12) (v : Word32)
  | mmioW64 (off : BitVec 12) (v : Word64)
  | gcmdTeSet
  | gcmdTeClr
  | gcmdQieSet
  | gcmdQieClr
  | gcmdIreSet
  | gcmdIreClr
  | gcmdCfiSet
  | gcmdCfiClr
  | gcmdSrtp
  | gcmdSirtp
  | gcmdSfl
  | gcmdEafl
  | gcmdWbf
  | dmaTranslate (sid : BitVec 16) (addr len : Word64) (flags : Perm) (atype : AddrType)
  | dmaBulk (sid : BitVec 16) (flags : Perm) (addrs : List Word64)
  | irqRemapCompat (sid : BitVec 16) (msiAddr : Word64) (msiData : Word32)
  | irqRemap (sid : BitVec 16) (msiAddr : Word64) (msiData : Word32)
  | dscCcInv (d : Desc)
  | dscIotlbInv (d : Desc)
  | dscDevTlbInv (d : Desc)
  | dscIecInv (d : Desc)
  | dscPIotlbInv (d : Desc)
  | dscPcInv (d : Desc)
  | dscPDevTlbInv (d : Desc)
  | dscInvWait (d : Desc)
  | dscRsvd00 (d : Desc)
  | dscRsvd09Odd (d : Desc)
  | dscRsvd0A0E (d : Desc)
  | dscRsvd0C (d : Desc)
  | dscRsvdT4 (d : Desc)
  | dscRsvdT5 (d : Desc)
  | dscRsvdT6 (d : Desc)
  deriving DecidableEq, Repr

/-- The interfaces through which an agent calls the block (R10, R170): the MMIO surface, `translateAccess`,
`translateBulk` and `remapInterrupt`. -/
inductive Port where
  | mmio
  | translate
  | bulk
  | irq
  deriving DecidableEq, Repr

/-- Where the bytes of an operation come from: a call at a port, or a descriptor of the invalidation queue (R170). -/
inductive Source where
  | call (p : Port)
  | ring
  deriving DecidableEq, Repr

/-- Why bytes are no operation. -/
inductive DecodeError where
  /-- The packet has too few or too many bytes for its form. -/
  | badLength
  /-- Bits 15:14 of an MMIO access word are not 0 (R173: the access word has 14 bits). -/
  | badAccessWord
  /-- A DMA call's permission code is none of the four of the model's packing. -/
  | badFlags
  /-- A DMA call's address-type code is none of the three of R75. -/
  | badAddrType
  deriving DecidableEq, Repr

end Sys2Proof
end

