-- ==== Sys2Proof/Machine/Operands.lean ====
section
/-! DEFINITION. The operand forms: MMIO acceptance and views (R131, R134, R250), the preconditions of the requests
(R290, R330), permission sets, the fields of table entries, MSIs and descriptors (R180 to R214). -/

namespace Sys2Proof.Machine

/-! ### MMIO accesses -/

/-- Is `[off, off + n)` inside one group? (R131) -/
def inOneGroup (w : Windows) (off n : Nat) : Bool :=
  decide (off + n ≤ w.g0End) || (decide (w.g1First ≤ off) && decide (off + n ≤ w.g1End))

/-- R131: an access is accepted iff its size is 4 or 8, it is naturally aligned, and it lies in one group. -/
def accepted (w : Windows) (off n : Nat) : Bool := (n == 4 || n == 8) && off % n == 0 && inOneGroup w off n

/-- Do the bytes of a register overlap an access `[off, off + n)`? (R250) -/
def overlaps (x : Reg) (off n : Nat) : Bool := decide (x.off < off + n) && decide (off < x.off + x.size)

/-- The byte that an access `[off, off + n)` of value `v` writes at offset `o`; 0 outside the access (R250). -/
def writtenByte (off n : Nat) (v : Word64) (o : Nat) : Byte :=
  if off ≤ o ∧ o < off + n then byteOf v (o - off) else 0

/-- `writtenX` of R250 for a 32-bit register at offset `x`. -/
def written32 (off n : Nat) (v : Word64) (x : Nat) : Word32 :=
  le32 (writtenByte off n v x) (writtenByte off n v (x + 1)) (writtenByte off n v (x + 2)) (writtenByte off n v (x + 3))

/-! ### Requests -/

/-- The flags of a DMA request are a non-empty subset of READ and WRITE (R290). -/
def flagsNonEmpty (f : Perm) : Bool := f.read || f.write

/-- The precondition of `translateAccess` (R290, D37): a positive length, a range inside the 64-bit space, and
non-empty flags. -/
def translatePre (addr len : Word64) (flags : Perm) : Bool :=
  decide (0 < len.toNat) && decide (addr.toNat + len.toNat ≤ 2 ^ 64) && flagsNonEmpty flags

/-- The precondition of `translateBulk` (R330, D37): at least one address, every one page-aligned, non-empty flags. -/
def bulkPre (flags : Perm) (addrs : List Word64) : Bool :=
  !addrs.isEmpty && addrs.all (fun a => a.toNat % 4096 == 0) && flagsNonEmpty flags

/-- READ and WRITE, the permissions of a pass-through or disabled-translation result (R321). -/
def permFull : Perm := ⟨true, true⟩

/-- The intersection of two permission sets (R310, R320). -/
def permInter (a b : Perm) : Perm := ⟨a.read && b.read, a.write && b.write⟩

/-- The bus of a source ID (R180). -/
def sidBus (sid : BitVec 16) : Byte := sid.extractLsb' 8 8

/-- The device and function of a source ID (R180). -/
def sidDevfn (sid : BitVec 16) : Byte := sid.extractLsb' 0 8

/-! ### DMA-remapping structures -/

/-- The translation-table mode of an active root pointer (R181). -/
def rtTtm (rt : Word64) : BitVec 2 := field rt 10 2

/-- The reserved-bit check of a root entry (R183). -/
def rootRsvd (p : Params) (q0 q1 : Word64) : Bool := q0 &&& ~~~(1 ||| hawMask p) != 0 || q1 != 0

/-- The reserved-bit check of a context entry (R184, D47). -/
def ctxRsvd (p : Params) (q0 q1 : Word64) : Bool := q0 &&& ~~~(0xF ||| hawMask p) != 0 || q1 &&& ~~~(ctxQw1Valid p) != 0

/-- The translation type of a context entry (R185). -/
def ctxTt (q0 : Word64) : BitVec 2 := field q0 2 2

/-- The address width of a context entry (R186). -/
def ctxAw (q1 : Word64) : BitVec 3 := field q1 0 3

/-- The domain ID of a context entry, `4 + 2 * P_ND` bits (R184, R304). -/
def ctxDid (p : Params) (q1 : Word64) : BitVec 16 :=
  (field q1 8 16) &&& BitVec.ofNat 16 (2 ^ didWidth p - 1)

/-- `awValid` of R304: the encoding is 1, 2 or 3 and `CAP.SAGAW` has its bit set (R186). -/
def awValid (cap : Word64) (aw : BitVec 3) : Bool :=
  (aw == 1 || aw == 2 || aw == 3) && cap.getLsbD (8 + aw.toNat)

/-- The permission of a second-level entry (R187). -/
def entryPerm (e : Word64) : Perm := ⟨e.getLsbD 0, e.getLsbD 1⟩

/-- The page-size bit of a second-level entry (R187). -/
def entryPs (e : Word64) : Bool := e.getLsbD 7

/-- The address bits of a second-level entry, `ADDR[51:12]` in place (R187). -/
def entryAddr (e : Word64) : Word64 := e &&& 0x000FFFFFFFFFF000

/-- The index of an input address at level `L` (R188). -/
def slIndex (addr : Word64) (level : Nat) : BitVec 9 := field addr (12 + 9 * level) 9

/-- Is an entry at level `L` a leaf? (R188) -/
def slIsLeaf (level : Nat) (e : Word64) : Bool := level == 0 || ((level == 1 || level == 2) && entryPs e)

/-- The page size of a leaf at level `L`, in bytes (R188). -/
def slPageSize (level : Nat) : Nat := 2 ^ (12 + 9 * level)

/-- HAW_RSVD (R189): the address bits from P_HAW to 51. -/
def hawRsvd (p : Params) : Word64 := 0x000FFFFFFFFFF000 &&& ~~~(hawMask p)

/-- The reserved bits of an entry at level `L`, as a mask (R189, D12); `cap` supplies `SLLPS`. -/
def slRsvdMask (p : Params) (cap : Word64) (e : Word64) (level : Nat) : Word64 :=
  hawRsvd p |||
    (if level = 3 ∨ level = 4 then 0x80
     else if level = 2 ∧ entryPs e then (if cap.getLsbD 35 then 0 else 0x80) ||| 0x3FFFF000
     else if level = 1 ∧ entryPs e then (if cap.getLsbD 34 then 0 else 0x80) ||| 0x1FF000
     else 0)

/-- The output address of a leaf at level `L` (R190). -/
def slOutput (e addr : Word64) (level : Nat) : Word64 :=
  let low := BitVec.ofNat 64 (slPageSize level - 1)
  (entryAddr e &&& ~~~low) ||| (addr &&& low)

/-- Does the page of `psize` bytes that holds `out` overlap the reserved interrupt window? (R315, D14) The page base is
`out` less the input address's offset in the page. -/
def inIrqWindow (p : Params) (out addr : Word64) (psize : Nat) : Bool :=
  let pb := out.toNat - addr.toNat % psize
  decide (pb ≤ p.irqWindowLast.toNat) && decide (p.irqWindowFirst.toNat < pb + psize)

/-! ### Interrupt-remapping structures -/

/-- The handle of a remappable MSI (R193, R364). -/
def irHandle (msiAddr : Word64) : BitVec 16 := (field msiAddr 2 1) ++ (field msiAddr 5 15)

/-- The table index of a remappable MSI, a 17-bit sum (R193, R364, D24). -/
def irIndex (msiAddr : Word64) (msiData : Word32) : Nat :=
  (irHandle msiAddr).toNat + (if msiAddr.getLsbD 3 then (field msiData 0 16).toNat else 0)

/-- The number of entries of the interrupt-remap table (R194, R365). -/
def irTableSize (irta : Word64) : Nat := 2 ^ ((field irta 0 4).toNat + 1)

/-- Extended interrupt mode of an active pointer, `EIME` (R195, R361). -/
def irEime (irta : Word64) : Bool := irta.getLsbD 11

/-- IRTE_QW0_RSVD (R196). -/
def irteQw0Rsvd (eime : Bool) : Word64 := if eime then 0x00000000FF007000 else 0xFFFF00FFFF007000

/-- IRTE_QW1_RSVD (R196). -/
def irteQw1Rsvd : Word64 := 0xFFFFFFFFFFF00000

/-- SQ_MASK (R197). -/
def sqMask (sq : BitVec 2) : BitVec 16 :=
  if sq = 0 then 0xFFFF else if sq = 1 then 0xFFFB else if sq = 2 then 0xFFF9 else 0xFFF8

/-! ### Descriptors -/

/-- A descriptor matches an opcode-table row's match and mask words (R173). -/
def matchesRow (d : Desc) (mask word : Word64) : Bool := d.qw0 &&& mask == word

/-- The 7-bit type of a descriptor (R211). -/
def descType (d : Desc) : BitVec 7 := (field d.qw0 9 3) ++ (field d.qw0 0 4)

/-- WAIT_QW0_VALID (R212); `pds` is `ECAP.PDS`. -/
def waitQw0Valid (pds : Bool) : Word64 := 0xFFFFFFFF00000E7F ||| (if pds then 0x80 else 0)

/-- WAIT_QW1_VALID (R212). -/
def waitQw1Valid : Word64 := 0xFFFFFFFFFFFFFFFC

end Sys2Proof.Machine
end

