-- ==== Sys2Proof/Decode.lean ====
section
/-! DEFINITION. The decoder, total on any bytes, and after it the encoder. An MMIO operation is its access word (R173) and
its data; an interrupt request begins with `msiAddr` (R191); a descriptor is its quadwords (R210, R211). The DMA calls
have no opcode word (R173): their packing is the model's own (assumption 8). A GCMD word decodes bit by bit
(R172, R220). -/

namespace Sys2Proof

open Sys2Proof.Machine

/-! ### Decoding -/

/-- An MMIO operation (R171, R173): the 14-bit access word `dir << 13 | size8 << 12 | off` in two bytes, and for a write
its data. -/
def decodeMmio : List Byte → Except DecodeError Instr
  | b0 :: b1 :: data =>
    if field (le16 b0 b1) 14 2 ≠ 0 then .error .badAccessWord
    else
      match (le16 b0 b1).getLsbD 13, (le16 b0 b1).getLsbD 12, data with
      | false, false, [] => .ok (.mmioR32 (field (le16 b0 b1) 0 12))
      | false, true, [] => .ok (.mmioR64 (field (le16 b0 b1) 0 12))
      | true, false, [d0, d1, d2, d3] => .ok (.mmioW32 (field (le16 b0 b1) 0 12) (le32 d0 d1 d2 d3))
      | true, true, [d0, d1, d2, d3, d4, d5, d6, d7] =>
        .ok (.mmioW64 (field (le16 b0 b1) 0 12) (le64 d0 d1 d2 d3 d4 d5 d6 d7))
      | _, _, _ => .error .badLength
  | _ => .error .badLength

/-- The permission code of a DMA call's packet: 0 is R, 1 is W, 2 is RW (the flags of R230), 3 is the empty set. -/
def decodeFlags (b : Byte) : Except DecodeError Perm :=
  if b = 0 then .ok ⟨true, false⟩
  else if b = 1 then .ok ⟨false, true⟩
  else if b = 2 then .ok ⟨true, true⟩
  else if b = 3 then .ok ⟨false, false⟩
  else .error .badFlags

/-- The address-type code of a DMA call's packet, the codes of R486. -/
def decodeAddrType (b : Byte) : Except DecodeError AddrType :=
  if b = 0 then .ok .untranslated
  else if b = 1 then .ok .translationReq
  else if b = 2 then .ok .translated
  else .error .badAddrType

/-- A `translateAccess` call: sid, address, length less one, permission code, address-type code. -/
def decodeTranslate : List Byte → Except DecodeError Instr
  | [s0, s1, a0, a1, a2, a3, a4, a5, a6, a7, l0, l1, l2, l3, l4, l5, l6, l7, f, t] =>
    match decodeFlags f, decodeAddrType t with
    | .ok flags, .ok atype =>
      .ok (.dmaTranslate (le16 s0 s1) (le64 a0 a1 a2 a3 a4 a5 a6 a7) (le64 l0 l1 l2 l3 l4 l5 l6 l7 + 1) flags atype)
    | .error e, _ => .error e
    | _, .error e => .error e
  | _ => .error .badLength

/-- Addresses of eight bytes each; none if bytes are left over. -/
def decodeAddrs : List Byte → Option (List Word64)
  | [] => some []
  | b0 :: b1 :: b2 :: b3 :: b4 :: b5 :: b6 :: b7 :: rest => (decodeAddrs rest).map (le64 b0 b1 b2 b3 b4 b5 b6 b7 :: ·)
  | _ => none

/-- A `translateBulk` call: sid, permission code, addresses. -/
def decodeBulk : List Byte → Except DecodeError Instr
  | s0 :: s1 :: f :: rest =>
    match decodeFlags f, decodeAddrs rest with
    | .ok flags, some addrs => .ok (.dmaBulk (le16 s0 s1) flags addrs)
    | .error e, _ => .error e
    | _, none => .error .badLength
  | _ => .error .badLength

/-- A `remapInterrupt` call: `msiAddr`, whose bit 4 is the format flag (R191), then `msiData` and sid. -/
def decodeIrq : List Byte → Except DecodeError Instr
  | [a0, a1, a2, a3, a4, a5, a6, a7, d0, d1, d2, d3, s0, s1] =>
    if (le64 a0 a1 a2 a3 a4 a5 a6 a7).getLsbD 4 then
      .ok (.irqRemap (le16 s0 s1) (le64 a0 a1 a2 a3 a4 a5 a6 a7) (le32 d0 d1 d2 d3))
    else .ok (.irqRemapCompat (le16 s0 s1) (le64 a0 a1 a2 a3 a4 a5 a6 a7) (le32 d0 d1 d2 d3))
  | _ => .error .badLength

/-- A descriptor decodes by its 7-bit type (R211, R220, R446): every type has its row. -/
def decodeDesc (d : Desc) : Instr :=
  let t := descType d
  if t.getLsbD 4 then .dscRsvdT4 d
  else if t.getLsbD 5 then .dscRsvdT5 d
  else if t.getLsbD 6 then .dscRsvdT6 d
  else if t = 0x01 then .dscCcInv d
  else if t = 0x02 then .dscIotlbInv d
  else if t = 0x03 then .dscDevTlbInv d
  else if t = 0x04 then .dscIecInv d
  else if t = 0x05 then .dscInvWait d
  else if t = 0x06 then .dscPIotlbInv d
  else if t = 0x07 then .dscPcInv d
  else if t = 0x08 then .dscPDevTlbInv d
  else if t = 0x00 then .dscRsvd00 d
  else if t = 0x0C then .dscRsvd0C d
  else if t = 0x0A ∨ t = 0x0E then .dscRsvd0A0E d
  else .dscRsvd09Odd d

/-- A descriptor of the ring: its sixteen bytes (R210). -/
def decodeRing : List Byte → Except DecodeError Instr
  | [a0, a1, a2, a3, a4, a5, a6, a7, b0, b1, b2, b3, b4, b5, b6, b7] =>
    .ok (decodeDesc ⟨le64 a0 a1 a2 a3 a4 a5 a6 a7, le64 b0 b1 b2 b3 b4 b5 b6 b7⟩)
  | _ => .error .badLength

/-- The decoder: the bytes of one operation, from where they come. -/
def decode : Source → List Byte → Except DecodeError Instr
  | .call .mmio, bs => decodeMmio bs
  | .call .translate, bs => decodeTranslate bs
  | .call .bulk, bs => decodeBulk bs
  | .call .irq, bs => decodeIrq bs
  | .ring, bs => decodeRing bs

/-- The command rows that a written GCMD word asks for, bit by bit (R172, R220, R402), in the order R401 acts on them: a
set or a clear row for each level command, and the row of every one-shot or ignored command whose bit is 1. -/
def decodeGcmd (w : Word32) : List Instr :=
  [if w.getLsbD 26 then .gcmdQieSet else .gcmdQieClr]
    ++ [if w.getLsbD 25 then .gcmdIreSet else .gcmdIreClr]
    ++ [if w.getLsbD 23 then .gcmdCfiSet else .gcmdCfiClr]
    ++ (if w.getLsbD 30 then [.gcmdSrtp] else [])
    ++ (if w.getLsbD 24 then [.gcmdSirtp] else [])
    ++ (if w.getLsbD 29 then [.gcmdSfl] else [])
    ++ (if w.getLsbD 28 then [.gcmdEafl] else [])
    ++ (if w.getLsbD 27 then [.gcmdWbf] else [])
    ++ [if w.getLsbD 31 then .gcmdTeSet else .gcmdTeClr]

/-! ### Encoding -/

/-- The permission code of a DMA call's packet. -/
def encodeFlags (f : Perm) : Byte :=
  match f.read, f.write with
  | true, false => 0
  | false, true => 1
  | true, true => 2
  | false, false => 3

/-- The address-type code of a DMA call's packet. -/
def encodeAddrType : AddrType → Byte
  | .untranslated => 0
  | .translationReq => 1
  | .translated => 2

/-- The access word of R173, with bits 15:14 zero. -/
def accessWord (isWrite size8 : Bool) (off : BitVec 12) : BitVec 16 :=
  off.setWidth 16 ||| boolBits 16 size8 <<< 12 ||| boolBits 16 isWrite <<< 13

/-- The bytes of a descriptor (R210). -/
def encodeDesc (d : Desc) : List Byte := bytes64 d.qw0 ++ bytes64 d.qw1

/-- The bytes of an operation; for a command row, the GCMD word whose only command bit that is 1 is the row's own. -/
def encode : Instr → List Byte
  | .mmioR32 off => bytes16 (accessWord false false off)
  | .mmioR64 off => bytes16 (accessWord false true off)
  | .mmioW32 off v => bytes16 (accessWord true false off) ++ bytes32 v
  | .mmioW64 off v => bytes16 (accessWord true true off) ++ bytes64 v
  | .gcmdTeSet => bytes32 0x80000000
  | .gcmdTeClr => bytes32 0
  | .gcmdQieSet => bytes32 0x04000000
  | .gcmdQieClr => bytes32 0
  | .gcmdIreSet => bytes32 0x02000000
  | .gcmdIreClr => bytes32 0
  | .gcmdCfiSet => bytes32 0x00800000
  | .gcmdCfiClr => bytes32 0
  | .gcmdSrtp => bytes32 0x40000000
  | .gcmdSirtp => bytes32 0x01000000
  | .gcmdSfl => bytes32 0x20000000
  | .gcmdEafl => bytes32 0x10000000
  | .gcmdWbf => bytes32 0x08000000
  | .dmaTranslate sid addr len flags atype =>
    bytes16 sid ++ bytes64 addr ++ bytes64 (len - 1) ++ [encodeFlags flags, encodeAddrType atype]
  | .dmaBulk sid flags addrs => bytes16 sid ++ [encodeFlags flags] ++ addrs.flatMap bytes64
  | .irqRemapCompat sid msiAddr msiData => bytes64 msiAddr ++ bytes32 msiData ++ bytes16 sid
  | .irqRemap sid msiAddr msiData => bytes64 msiAddr ++ bytes32 msiData ++ bytes16 sid
  | .dscCcInv d => encodeDesc d
  | .dscIotlbInv d => encodeDesc d
  | .dscDevTlbInv d => encodeDesc d
  | .dscIecInv d => encodeDesc d
  | .dscPIotlbInv d => encodeDesc d
  | .dscPcInv d => encodeDesc d
  | .dscPDevTlbInv d => encodeDesc d
  | .dscInvWait d => encodeDesc d
  | .dscRsvd00 d => encodeDesc d
  | .dscRsvd09Odd d => encodeDesc d
  | .dscRsvd0A0E d => encodeDesc d
  | .dscRsvd0C d => encodeDesc d
  | .dscRsvdT4 d => encodeDesc d
  | .dscRsvdT5 d => encodeDesc d
  | .dscRsvdT6 d => encodeDesc d

/-- Where the bytes of an operation come from; none for a command row, which is one bit of the GCMD word of an MMIO
write (R170, item 2). -/
def sourceOf : Instr → Option Source
  | .mmioR32 _ | .mmioR64 _ | .mmioW32 _ _ | .mmioW64 _ _ => some (.call .mmio)
  | .gcmdTeSet | .gcmdTeClr | .gcmdQieSet | .gcmdQieClr | .gcmdIreSet | .gcmdIreClr | .gcmdCfiSet | .gcmdCfiClr => none
  | .gcmdSrtp | .gcmdSirtp | .gcmdSfl | .gcmdEafl | .gcmdWbf => none
  | .dmaTranslate _ _ _ _ _ => some (.call .translate)
  | .dmaBulk _ _ _ => some (.call .bulk)
  | .irqRemapCompat _ _ _ | .irqRemap _ _ _ => some (.call .irq)
  | .dscCcInv _ | .dscIotlbInv _ | .dscDevTlbInv _ | .dscIecInv _ | .dscPIotlbInv _ | .dscPcInv _ => some .ring
  | .dscPDevTlbInv _ | .dscInvWait _ | .dscRsvd00 _ | .dscRsvd09Odd _ | .dscRsvd0A0E _ | .dscRsvd0C _ => some .ring
  | .dscRsvdT4 _ | .dscRsvdT5 _ | .dscRsvdT6 _ => some .ring

/-- The match and mask words of an operation's row of spec/opcode_table.json (R173). -/
def tableRow : Instr → Nat × Nat
  | .mmioR32 _ => (0x0000, 0x3000)
  | .mmioR64 _ => (0x1000, 0x3000)
  | .mmioW32 _ _ => (0x2000, 0x3000)
  | .mmioW64 _ _ => (0x3000, 0x3000)
  | .gcmdTeSet => (0x80000000, 0x80000000)
  | .gcmdTeClr => (0, 0x80000000)
  | .gcmdQieSet => (0x4000000, 0x4000000)
  | .gcmdQieClr => (0, 0x4000000)
  | .gcmdIreSet => (0x2000000, 0x2000000)
  | .gcmdIreClr => (0, 0x2000000)
  | .gcmdCfiSet => (0x800000, 0x800000)
  | .gcmdCfiClr => (0, 0x800000)
  | .gcmdSrtp => (0x40000000, 0x40000000)
  | .gcmdSirtp => (0x1000000, 0x1000000)
  | .gcmdSfl => (0x20000000, 0x20000000)
  | .gcmdEafl => (0x10000000, 0x10000000)
  | .gcmdWbf => (0x8000000, 0x8000000)
  | .dmaTranslate _ _ _ _ _ => (0, 0)
  | .dmaBulk _ _ _ => (0, 0)
  | .irqRemapCompat _ _ _ => (0, 0x10)
  | .irqRemap _ _ _ => (0x10, 0x10)
  | .dscCcInv _ => (0x001, 0xE0F)
  | .dscIotlbInv _ => (0x002, 0xE0F)
  | .dscDevTlbInv _ => (0x003, 0xE0F)
  | .dscIecInv _ => (0x004, 0xE0F)
  | .dscPIotlbInv _ => (0x006, 0xE0F)
  | .dscPcInv _ => (0x007, 0xE0F)
  | .dscPDevTlbInv _ => (0x008, 0xE0F)
  | .dscInvWait _ => (0x005, 0xE0F)
  | .dscRsvd00 _ => (0x000, 0xE0F)
  | .dscRsvd09Odd _ => (0x009, 0xE09)
  | .dscRsvd0A0E _ => (0x00A, 0xE0B)
  | .dscRsvd0C _ => (0x00C, 0xE0F)
  | .dscRsvdT4 _ => (0x200, 0x200)
  | .dscRsvdT5 _ => (0x400, 0x600)
  | .dscRsvdT6 _ => (0x800, 0xE00)

/-! ### Words of the opcode table -/

/-- Which of the word spaces of R173 a table word belongs to. -/
inductive TableSpace where
  | gcmd
  | packet (s : Source)
  deriving DecidableEq, Repr

/-- The space of a table word of `nbits` bits. The rows of the five spaces overlap (R173) and a word does not say its
space, so this choice, from the width and the fixed bits, is the model's own (assumption 9). -/
def tableSpace (nbits w : Nat) : TableSpace :=
  if nbits = 0 then .packet (.call .translate)
  else if nbits ≤ 8 then .packet (.call .irq)
  else if nbits ≤ 16 then (if w = 0 ∨ 0x1000 ≤ w then .packet (.call .mmio) else .packet .ring)
  else if nbits ≤ 32 then .gcmd
  else if w.testBit 4 then .packet (.call .irq)
  else .packet .ring

/-- How many bytes the operation has that begins with a table word: the bytes past the word are zero. -/
def packetLength (s : Source) (w : Nat) : Nat :=
  match s with
  | .call .mmio => if w.testBit 13 then (if w.testBit 12 then 10 else 6) else 2
  | .call .translate => 20
  | .call .bulk => 11
  | .call .irq => 14
  | .ring => 16

/-- The bytes of a table word and of the zeros above it, least significant byte first (R140). -/
def tablePacket (s : Source) (w : Nat) : List Byte :=
  (List.range (packetLength s w)).map fun k => BitVec.ofNat 8 (w / 2 ^ (8 * k))

/-- The command row a GCMD table word stands for, out of the rows it decodes to: the row of its highest command bit that
is 1; of a word with none, CFI_CLR if the word ends below bit 24 and TE_CLR otherwise (assumption 9). -/
def gcmdTableRow (nbits w : Nat) : Instr :=
  if w.testBit 31 then .gcmdTeSet
  else if w.testBit 30 then .gcmdSrtp
  else if w.testBit 29 then .gcmdSfl
  else if w.testBit 28 then .gcmdEafl
  else if w.testBit 27 then .gcmdWbf
  else if w.testBit 26 then .gcmdQieSet
  else if w.testBit 25 then .gcmdIreSet
  else if w.testBit 24 then .gcmdSirtp
  else if w.testBit 23 then .gcmdCfiSet
  else if nbits ≤ 24 then .gcmdCfiClr
  else .gcmdTeClr

/-- The instruction that the decoder reads from an opcode-table word. -/
def decodeTableWord (nbits w : Nat) : Option Instr :=
  match tableSpace nbits w with
  | .gcmd => some (gcmdTableRow nbits w)
  | .packet s =>
    match decode s (tablePacket s w) with
    | .ok i => some i
    | .error _ => none

end Sys2Proof
end

