-- ==== Sys2Proof/Machine/Memory.lean ====
section
/-! DEFINITION. Guest-physical memory (R130, item 2): 64-bit byte addresses, held as a list of cells in one canonical
form. The block keeps no copy of it (R76): it stands in State so that a run has something to read. -/

namespace Sys2Proof.Machine

/-- Guest memory: strictly rising addresses, no cell equal to what an unlisted address reads as. -/
abbrev Memory := List Host.Cell

/-- What an unlisted address reads as: 0 (95_test_vectors.md: "Memory not listed reads as 0"; assumption 3). -/
def unwritten : Byte := 0

/-- The byte at an address. -/
def Memory.get : Memory → Nat → Byte
  | [], _ => unwritten
  | (k, b) :: rest, a => if k = a then b else Memory.get rest a

/-- Memory with the byte at an address replaced, in canonical form again. -/
def Memory.put : Memory → Nat → Byte → Memory
  | [], a, b => if b = unwritten then [] else [(a, b)]
  | (k, c) :: rest, a, b =>
    if k < a then (k, c) :: Memory.put rest a b
    else if k = a then (if b = unwritten then rest else (a, b) :: rest)
    else if b = unwritten then (k, c) :: rest else (a, b) :: (k, c) :: rest

/-- The canonical form: addresses strictly rising and inside the 64-bit space, no cell holding what an unlisted
address reads as. -/
abbrev Memory.wf (m : Memory) : Prop :=
  m.Pairwise (fun c d => c.1 < d.1) ∧ ∀ c ∈ m, c.2 ≠ unwritten ∧ c.1 < 2 ^ 64

/-- The byte at a 64-bit guest-physical address. -/
def Memory.byteAt (m : Memory) (a : Word64) : Byte := m.get a.toNat

/-- The `n` bytes from an address, lowest address first. -/
def Memory.bytesAt (m : Memory) (a : Word64) (n : Nat) : List Byte :=
  (List.range n).map fun k => m.byteAt (a + BitVec.ofNat 64 k)

/-- Memory after the bytes of a list are stored from an address on, lowest address first. -/
def Memory.store (m : Memory) (a : Word64) : List Byte → Memory
  | [] => m
  | b :: bs => Memory.store (m.put a.toNat b) (a + 1) bs

/-- The little-endian 64-bit value at an address (R140). -/
def Memory.word64At (m : Memory) (a : Word64) : Word64 := le64OfList (m.bytesAt a 8)

end Sys2Proof.Machine
end

