-- ==== Sys2Proof/Machine/Types.lean ====
section
/-! DEFINITION. The types the state is made of: diagnostic codes (R199, R200), output events (R76), the worker's
snapshot and phases (R74, R433), the in-flight requests (R75, R156), and what the outside world does (R8, R10). -/

namespace Sys2Proof.Machine

/-- The diagnostic codes of address-translation faults (R200), in the table's order. -/
inductive AtFault where
  | ttmScalable | ttmAbortUnsupported | ttmReserved
  | rootReadFailed | rootNotPresent | rootRsvd
  | ctxReadFailed | ctxNotPresent | ctxRsvd | ctxTtInvalid | ctxAwInvalid | ttBlocked | addrBeyondWidth
  | slReadFailed | slWriteDenied | slReadDenied | slRsvd | outInWindow
  deriving DecidableEq, Repr

/-- The diagnostic codes of interrupt-remapping faults (R200), in the table's order. -/
inductive IrFault where
  | indexOutOfRange | irteNotPresent | irteReadFailed | irteRsvd | svtReserved | compatBlocked
  | sidMismatch | busOutOfRange | posted
  deriving DecidableEq, Repr

/-- The diagnostic codes of invalidation-queue errors (R199). -/
inductive IqError where
  | tailInvalid | fetchFailed | waitStatusWriteFailed | dscTypeInvalid | waitRsvd | tailMisaligned | ttmReserved
  deriving DecidableEq, Repr

/-- The diagnostic code `diag` (R73). -/
inductive Diag where
  | none
  | at (f : AtFault)
  | ir (f : IrFault)
  | iq (e : IqError)
  deriving DecidableEq, Repr

/-- The two event interrupts (R492, R494). -/
inductive EventKind where
  | fault
  | invCompletion
  deriving DecidableEq, Repr

/-- An output event (R76): a `sendMsi` call or a `writeGuestPhysical` call, with its arguments. -/
inductive OutEvent where
  | sendMsi (addr : Word64) (data : Word32)
  | writeGuest (addr : Word64) (bytes : List Byte)
  deriving DecidableEq, Repr

/-- What a call returns to its caller: the value of an MMIO read, `OK(...)` or `FAIL` of a request (R17). -/
inductive Result where
  | read32 (v : Word32)
  | read64 (v : Word64)
  /-- All-ones of `n` bytes, for a read of a size other than 4 or 8 (R132). -/
  | unused (n : Nat)
  | translated (base : Word64) (clen : Nat) (perm : Perm) (did : BitVec 16)
  | bulk (outs : List Word64)
  | msi (addr : Word64) (data : Word32)
  /-- `FAIL`; `earlier` is empty but for a bulk call under D46, where it holds the outputs before the failing one. -/
  | fail (earlier : List Word64)
  deriving DecidableEq, Repr

/-- A reply: the call (none for an MMIO read of a size that no operation form has) and what it returned. -/
structure Reply where
  call : Option Instr
  result : Result
  deriving DecidableEq, Repr

/-- The snapshot step of a request (R156, R291, R361): the GSTS enables, the active pointers and the capability
registers. -/
structure Snap where
  tes : Bool
  ires : Bool
  cfis : Bool
  rt : Word64
  irta : Word64
  cap : Word64
  ecap : Word64
  deriving DecidableEq, Repr

/-- The fields of a DMA request that a fault record needs (R486). -/
structure FaultReq where
  sid : BitVec 16
  addr : Word64
  atype : AddrType
  isRead : Bool
  deriving DecidableEq, Repr

/-- How a walk ends (R156): with a result, with a target abort that records nothing (R297), or with a fault handed to
the record step together with the captured FPD flag (R490, R491). A failing bulk call carries the `earlier` outputs that it
returns all the same (92 D46, assumption 27). The walk of one element of a bulk call ends with the outputs so far. -/
inductive Walked where
  | done (r : Result)
  | abort (earlier : List Word64)
  | atFault (f : AtFault) (req : FaultReq) (fpd : Bool) (earlier : List Word64)
  | irFault (f : IrFault) (sid : BitVec 16) (index : Option Nat) (fpd : Bool)
  deriving DecidableEq, Repr

/-- A DMA or interrupt request with its arguments (R75): the calls that run as the three steps of R156. -/
inductive Request where
  | translate (sid : BitVec 16) (addr len : Word64) (flags : Perm) (atype : AddrType)
  | bulk (sid : BitVec 16) (flags : Perm) (addrs : List Word64)
  | remapCompat (sid : BitVec 16) (msiAddr : Word64) (msiData : Word32)
  | remap (sid : BitVec 16) (msiAddr : Word64) (msiData : Word32)
  deriving DecidableEq, Repr

/-- A request between its snapshot and its last record step (R156): its walk, or the walk of a bulk call's next element, has
not been taken yet (`none`) or has. -/
structure InFlight where
  request : Request
  snap : Snap
  /-- The outputs of the elements of a bulk call whose three steps are done, in order; empty for any other request. -/
  outs : List Word64
  walked : Option Walked
  deriving DecidableEq, Repr

/-- The worker's snapshot of the queue registers (R433). Offsets and sizes are counts of bytes. -/
structure QSnap where
  base : Word64
  size : Nat
  /-- 256-bit descriptors (`dsz = 32`). -/
  wide : Bool
  ttm : BitVec 2
  head : Nat
  tail : Nat
  deriving DecidableEq, Repr

/-- The stage of the descriptor being dispatched (R74). -/
inductive Stage where
  | start
  | signal
  deriving DecidableEq, Repr

/-- The worker phase (R74). `fetched` is FETCHING after the read of `W_FETCH`, with the bytes kept for `W_ADVANCE`
(R432), or none after a failed read. -/
inductive WPhase where
  | idle
  | fetching (snap : QSnap)
  | fetched (snap : QSnap) (bytes : Option (List Byte))
  | dispatching (snap : QSnap) (descs : List Desc) (i : Nat) (stage : Stage)
  | exited
  deriving DecidableEq, Repr

/-- The statistics counters of R70, one per acknowledged descriptor type (not architectural). -/
structure Stats where
  ccInv : Nat
  iotlbInv : Nat
  devTlbInv : Nat
  iecInv : Nat
  pIotlbInv : Nat
  pcInv : Nat
  pDevTlbInv : Nat
  deriving DecidableEq, Repr

/-- The acknowledged descriptor types (R211, R447). -/
inductive AckType where
  | ccInv | iotlbInv | devTlbInv | iecInv | pIotlbInv | pcInv | pDevTlbInv
  deriving DecidableEq, Repr

/-- How the external memory system answers one call of `readGuestPhysical` or `writeGuestPhysical` (R143, R144): with
the bytes guest memory holds, with a failure, or, for a read, with any other bytes. -/
inductive MemAnswer where
  | honest
  | fail
  | bytes (bs : List Byte)
  deriving DecidableEq, Repr

/-- The decoded input of a state restore (R545). -/
structure RestoreImage where
  ver : Word32
  cap : Word64
  ecap : Word64
  g0 : List Byte
  g1 : List Byte
  offs : List Nat
  rt : Word64
  irta : Word64
  deriving DecidableEq, Repr

/-- One step of an agent (R8), as the schedule names it. -/
inductive Event where
  /-- A call at a port, its bytes as Decode.lean packs them, run to its end in one step. -/
  | call (p : Port) (bytes : List Byte)
  /-- An MMIO access of a size other than 4 or 8 bytes (R131, R221). -/
  | oddAccess (isWrite : Bool) (off : BitVec 12) (n : Nat)
  /-- The snapshot step of a DMA or interrupt request (R156, item 1). -/
  | begin (p : Port) (bytes : List Byte)
  /-- The snapshot step of the next element of the `k`-th request in flight, a bulk call (R156, item 1). -/
  | snapshot (k : Nat)
  /-- The walk of the `k`-th request in flight, of its next element for a bulk call (R156, item 2). -/
  | walk (k : Nat)
  /-- The record step of the `k`-th request in flight, of that element for a bulk call (R156, item 3). -/
  | record (k : Nat)
  /-- The worker's next step (R432). -/
  | worker
  /-- Guest software stores bytes to guest memory (R230, `mem.w32` and `mem.w64`). -/
  | guestStore (addr : Word64) (bytes : List Byte)
  /-- The host resets the device (R542). -/
  | reset
  /-- The host restores a saved state (R545). -/
  | restore (img : RestoreImage)
  /-- The host shuts the worker down (R546). -/
  | shutdown
  deriving DecidableEq, Repr

end Sys2Proof.Machine
end

