-- ==== Sys2Proof/Machine/State.lean ====
section
/-! DEFINITION. The state of the block, its reset value, and the reasons a step can stop. -/

namespace Sys2Proof.Machine

/-- The state: everything the spec gives the block (R30 to R79), guest memory, and the environment's plain data (the
schedule, the memory system's answers, the replies). -/
structure State where
  /-- The parameters the device was built with (R11, R12); immutable. -/
  params : Params
  /-- The register file: the two byte arrays of R30, the only storage of register values, and their extents (R11). -/
  regs : RegFile
  /-- The active root-table pointer (R71). -/
  activeRtaddr : Word64
  /-- The active interrupt-remap-table pointer (R72). -/
  activeIrta : Word64
  /-- The diagnostic code (R73). -/
  diag : Diag
  /-- The worker's wake semaphore (R74, R431). -/
  wakePending : Bool
  /-- The worker's shutdown flag (R74, R546). -/
  shutdown : Bool
  /-- The worker phase (R74). -/
  wphase : WPhase
  /-- The statistics counters (R70). -/
  stats : Stats
  /-- The requests between their snapshot and record steps (R75, R156), oldest first. -/
  inflight : List InFlight
  /-- Guest-physical memory (R130), external to the block (R76). -/
  mem : Memory
  /-- MODEL'S OWN: how the memory system answers the next calls (R144); none left means honestly. -/
  oracle : List MemAnswer
  /-- MODEL'S OWN: the schedule, the steps the agents take next (R8, A29). -/
  agenda : List Event
  /-- The output event history, oldest first (R76). -/
  outputs : List OutEvent
  /-- MODEL'S OWN: what the calls returned, oldest first (R10, R17). -/
  replies : List Reply
  deriving DecidableEq, Repr

/-- Why the machine stops. -/
inductive Fault where
  /-- Raised by a state restore whose image does not fit the device (R545: "a hard failure"; "the device takes no further
  step"). Safe: the spec says that the device stops. -/
  | restoreFailed
  deriving DecidableEq, Repr

/-- Why a step is not taken. -/
inductive Refusal where
  /-- Raised by the arm of an instruction that has no meaning in this model yet. Safe. -/
  | notModelled (mnemonic : String)
  /-- Raised by a DMA request that breaks its precondition (R290, R330, D37: REFUSED, no step is taken). Safe. -/
  | precondition
  /-- Raised by the decoder's callers on bytes that are no operation. Safe: no agent can present them. -/
  | undecodable (e : DecodeError)
  /-- Raised by a descriptor's meaning when the worker is not dispatching a descriptor (R252: a contract violation inside
  the block, which no rule of the spec gives rise to; the model REFUSES it). Safe. -/
  | noBatch
  /-- Raised by a schedule entry that names a step no agent can take: a walk or record step of a request that is not
  there or not at that stage, a split MMIO access (R133: it is one step), an odd access of size 4 or 8. Safe. -/
  | notEnabled
  /-- Raised by a reset or restore while a request is in flight or the worker is busy (R542, R545, D55: REFUSED).
  Safe. -/
  | hostStepBusy
  deriving DecidableEq, Repr

/-- The outcome of a step of this machine. -/
abbrev Out := Host.Outcome State Fault Refusal

/-- Every statistics counter 0 (R540). -/
def zeroStats : Stats := ⟨0, 0, 0, 0, 0, 0, 0⟩

/-- The state right after reset of a device built with the parameters `p` and the window extents `w` (R11, R540): the register map's reset values, both
active pointers 0, no diagnostic code, the worker idle; nothing in flight, memory with nothing listed, nothing
scheduled. -/
def resetWith (p : Params) (w : Windows) : State where
  params := p
  regs := resetRegs p w
  activeRtaddr := 0
  activeIrta := 0
  diag := .none
  wakePending := false
  shutdown := false
  wphase := .idle
  stats := zeroStats
  inflight := []
  mem := []
  oracle := []
  agenda := []
  outputs := []
  replies := []

/-- The machine right after reset, with the default parameters of R11. -/
def State.reset : State := resetWith defaultParams defaultWindows

/-- The state with `regs` replaced. -/
def State.withRegs (s : State) (x : RegFile) : State := { s with regs := x }

/-- The state with `activeRtaddr` replaced. -/
def State.withActiveRtaddr (s : State) (x : Word64) : State := { s with activeRtaddr := x }

/-- The state with `activeIrta` replaced. -/
def State.withActiveIrta (s : State) (x : Word64) : State := { s with activeIrta := x }

/-- The state with `diag` replaced. -/
def State.withDiag (s : State) (x : Diag) : State := { s with diag := x }

/-- The state with `wakePending` replaced. -/
def State.withWake (s : State) (x : Bool) : State := { s with wakePending := x }

/-- The state with `shutdown` replaced. -/
def State.withShutdown (s : State) (x : Bool) : State := { s with shutdown := x }

/-- The state with `wphase` replaced. -/
def State.withPhase (s : State) (x : WPhase) : State := { s with wphase := x }

/-- The state with `stats` replaced. -/
def State.withStats (s : State) (x : Stats) : State := { s with stats := x }

/-- The state with `inflight` replaced. -/
def State.withInflight (s : State) (x : List InFlight) : State := { s with inflight := x }

/-- The state with `mem` replaced. -/
def State.withMem (s : State) (x : Memory) : State := { s with mem := x }

/-- The state with `oracle` replaced. -/
def State.withOracle (s : State) (x : List MemAnswer) : State := { s with oracle := x }

/-- The state with `agenda` replaced. -/
def State.withAgenda (s : State) (x : List Event) : State := { s with agenda := x }

/-- The state with one more output event (R76). -/
def State.emit (s : State) (e : OutEvent) : State := { s with outputs := s.outputs ++ [e] }

/-- The state with one more reply. -/
def State.reply (s : State) (r : Reply) : State := { s with replies := s.replies ++ [r] }

end Sys2Proof.Machine
end

