-- ==== Sys2Proof/Machine/Flags.lean ====
section
/-! DEFINITION. The status flags (R79) and the enables and masks beside them: where each one lies, its read, and its raw
field assignment (R14, R241). -/

namespace Sys2Proof.Machine

/-- The flags: `FSTS.PFO`, `PPF`, `IQE`; `FECTL.IM`, `IP`; `IECTL.IM`, `IP`; `ICS.IWC`; `FRCD_HI.F`; and the GSTS bits
`TES`, `RTPS`, `QIES`, `IRES`, `IRTPS`, `CFIS`. -/
inductive Flag where
  | pfo | ppf | iqe | feIm | feIp | ieIm | ieIp | iwc | frcdF | tes | rtps | qies | ires | irtps | cfis
  deriving DecidableEq, Repr

/-- The offset of the 32-bit word a flag lies in (R32); `FRCD_HI.F` is bit 63 of its register, bit 31 of the upper
word. -/
def Flag.off : Flag → Nat
  | .pfo | .ppf | .iqe => 0x034
  | .feIm | .feIp => 0x038
  | .ieIm | .ieIp => 0x0A0
  | .iwc => 0x09C
  | .frcdF => 0xE7C
  | .tes | .rtps | .qies | .ires | .irtps | .cfis => 0x01C

/-- The bit of a flag in its word (R47, R50, R51, R58, R59, R68). -/
def Flag.bit : Flag → Nat
  | .pfo => 0 | .ppf => 1 | .iqe => 4
  | .feIm => 31 | .feIp => 30
  | .ieIm => 31 | .ieIp => 30
  | .iwc => 0
  | .frcdF => 31
  | .tes => 31 | .rtps => 30 | .qies => 26 | .ires => 25 | .irtps => 24 | .cfis => 23

/-- A flag of a register file. -/
def RegFile.flag (r : RegFile) (f : Flag) : Bool := (r.read32 f.off).getLsbD f.bit

/-- The raw assignment of one flag (R14): a read-modify-write of its word. -/
def RegFile.setFlag (r : RegFile) (f : Flag) (b : Bool) : RegFile := r.write32 f.off (setBit (r.read32 f.off) f.bit b)

/-- A flag of the state. -/
def State.flag (s : State) (f : Flag) : Bool := s.regs.flag f

/-- The state after the raw assignment of one flag. -/
def State.setFlag (s : State) (f : Flag) (b : Bool) : State := s.withRegs (s.regs.setFlag f b)

/-- A 32-bit register of the state (R14). -/
def State.reg32 (s : State) (x : Reg) : Word32 := s.regs.read32 x.off

/-- A 64-bit register of the state (R14). -/
def State.reg64 (s : State) (x : Reg) : Word64 := s.regs.read64 x.off

/-- The state after a raw write of a 32-bit register (R241). -/
def State.setReg32 (s : State) (x : Reg) (v : Word32) : State := s.withRegs (s.regs.write32 x.off v)

/-- The state after a raw write of a 64-bit register (R241). -/
def State.setReg64 (s : State) (x : Reg) (v : Word64) : State := s.withRegs (s.regs.write64 x.off v)

/-- `ECAP.EIM` (R42, R493). -/
def State.ecapEim (s : State) : Bool := (s.reg64 .ecap).getLsbD 4

/-- `ECAP.PDS` (R42, R451). -/
def State.ecapPds (s : State) : Bool := (s.reg64 .ecap).getLsbD 42

/-- R266's test: `FSTS.PFO`, `PPF` and `IQE` are all 0. -/
def State.fstsClear (s : State) : Bool := !s.flag .pfo && !s.flag .ppf && !s.flag .iqe

end Sys2Proof.Machine
end

