-- ==== Sys2Proof/Machine/Ops.lean ====
section
/-! DEFINITION. The shared operations: guest-memory calls (R15, R143), event interrupts (R492, R493), taking a fault
(R485 to R491, R495) and the software clearing that ends one (R264, R487), request snapshots (R156). -/

namespace Sys2Proof.Machine

/-! ### Guest memory -/

/-- The `n` bytes of an answer that supplies bytes; a missing byte is 0. -/
def fitBytes (bs : List Byte) (n : Nat) : List Byte := (List.range n).map fun k => bs.getD k 0

/-- MemRead(a, n) (R15): the bytes or a failure, and the answers left. -/
def memRead (m : Memory) (o : List MemAnswer) (a : Word64) (n : Nat) : Option (List Byte) × List MemAnswer :=
  match o with
  | [] => (some (m.bytesAt a n), [])
  | .honest :: rest => (some (m.bytesAt a n), rest)
  | .fail :: rest => (none, rest)
  | .bytes bs :: rest => (some (fitBytes bs n), rest)

/-- MemRead64(a) (R15). -/
def memRead64 (m : Memory) (o : List MemAnswer) (a : Word64) : Option Word64 × List MemAnswer :=
  ((memRead m o a 8).1.map le64OfList, (memRead m o a 8).2)

/-- MemRead128(a) (R15): `(qw0, qw1)`. -/
def memRead128 (m : Memory) (o : List MemAnswer) (a : Word64) : Option (Word64 × Word64) × List MemAnswer :=
  ((memRead m o a 16).1.map fun bs => (le64OfList bs, le64OfList (bs.drop 8)), (memRead m o a 16).2)

/-- Does the memory system refuse a write? -/
def writeFails : List MemAnswer → Bool
  | .fail :: _ => true
  | _ => false

/-- MemWrite(a, n, v) (R15): the call is an output event (R76) whether or not it succeeds; a failed call leaves memory
as it was (assumption 5). The Boolean says that the call succeeded. -/
def memWrite (s : State) (a : Word64) (bs : List Byte) : State × Bool :=
  let s1 := (s.emit (.writeGuest a bs)).withOracle s.oracle.tail
  if writeFails s.oracle then (s1, false) else (s1.withMem (s.mem.store a bs), true)

/-! ### Event interrupts -/

/-- The mask bit of an event (R492, R494). -/
def EventKind.im : EventKind → Flag
  | .fault => .feIm
  | .invCompletion => .ieIm

/-- The pending bit of an event (R492, R494). -/
def EventKind.ip : EventKind → Flag
  | .fault => .feIp
  | .invCompletion => .ieIp

/-- The data register of an event (R492). -/
def EventKind.data : EventKind → Reg
  | .fault => .fedata
  | .invCompletion => .iedata

/-- The address register of an event (R492). -/
def EventKind.addr : EventKind → Reg
  | .fault => .feaddr
  | .invCompletion => .ieaddr

/-- The upper-address register of an event (R492). -/
def EventKind.uaddr : EventKind → Reg
  | .fault => .feuaddr
  | .invCompletion => .ieuaddr

/-- The address of an event's MSI (R493). -/
def eventMsiAddr (s : State) (k : EventKind) : Word64 :=
  (s.reg32 k.addr &&& 0xFFFFFFFC).setWidth 64 |||
    (if s.ecapEim then (s.reg32 k.uaddr).setWidth 64 <<< 32 else 0)

/-- The data of an event's MSI (R493, D22): the level and trigger bits are forced to 0. -/
def eventMsiData (s : State) (k : EventKind) : Word32 :=
  ((s.reg32 k.data &&& 0xFFFF) ||| (if s.ecapEim then s.reg32 k.data &&& 0xFFFF0000 else 0)) &&& ~~~0xC000#32

/-- SendEventMsi(kind) (R493). -/
def sendEventMsi (s : State) (k : EventKind) : State := s.emit (.sendMsi (eventMsiAddr s k) (eventMsiData s k))

/-- RaiseEvent(kind) (R492). -/
def raiseEvent (s : State) (k : EventKind) : State :=
  if s.flag k.im then s.setFlag k.ip true else (sendEventMsi s k).setFlag k.ip false

/-- An event whose mask goes from 1 to 0 while it is pending is delivered (R260, R261, D21). -/
def deliverOnUnmask (s : State) (k : EventKind) (oldIm newIm : Bool) : State :=
  if oldIm && !newIm && s.flag k.ip then (sendEventMsi s k).setFlag k.ip false else s

/-! ### Faults -/

/-- The fault-reason code of an address-translation fault (R200, D18). -/
def atReason (p : Params) : AtFault → Byte
  | .ttmScalable => p.frTtmScalable
  | .ttmAbortUnsupported => p.frTtmAbort
  | .ttmReserved => p.frTtmReserved
  | .rootReadFailed => 0x08
  | .rootNotPresent => 0x01
  | .rootRsvd => 0x0A
  | .ctxReadFailed => 0x09
  | .ctxNotPresent => 0x02
  | .ctxRsvd => 0x0B
  | .ctxTtInvalid => 0x03
  | .ctxAwInvalid => 0x03
  | .ttBlocked => 0x0D
  | .addrBeyondWidth => 0x04
  | .slReadFailed => 0x07
  | .slWriteDenied => 0x05
  | .slReadDenied => 0x06
  | .slRsvd => 0x0C
  | .outInWindow => p.frOutInWindow

/-- The fault-reason code of an interrupt-remapping fault (R200, D18). -/
def irReason (p : Params) : IrFault → Byte
  | .indexOutOfRange => 0x21
  | .irteNotPresent => 0x22
  | .irteReadFailed => 0x23
  | .irteRsvd => 0x24
  | .svtReserved => 0x24
  | .compatBlocked => 0x25
  | .sidMismatch => 0x26
  | .busOutOfRange => 0x26
  | .posted => p.frIrPosted

/-- Is an address-translation fault qualified, that is, suppressible by FPD? (R489, D17) -/
def atQualified : AtFault → Bool
  | .ttmScalable | .ttmAbortUnsupported | .ttmReserved => false
  | .rootReadFailed | .rootNotPresent | .rootRsvd => false
  | .ctxReadFailed => false
  | .ctxNotPresent | .ctxRsvd | .ctxTtInvalid | .ctxAwInvalid | .ttBlocked | .addrBeyondWidth => true
  | .slReadFailed | .slWriteDenied | .slReadDenied | .slRsvd | .outInWindow => true

/-- Is an interrupt-remapping fault qualified? (R489, D17) -/
def irQualified : IrFault → Bool
  | .compatBlocked | .indexOutOfRange | .irteReadFailed => false
  | .irteNotPresent | .irteRsvd | .svtReserved | .sidMismatch | .busOutOfRange | .posted => true

/-- The IQEI code of a queue error (R199, D31). -/
def iqei : IqError → BitVec 4
  | .tailInvalid => 0x1
  | .fetchFailed => 0x2
  | .waitStatusWriteFailed => 0x2
  | .dscTypeInvalid => 0x3
  | .waitRsvd => 0x4
  | .tailMisaligned => 0x6
  | .ttmReserved => 0x7

/-- `atcode` of R486. -/
def atCode : AddrType → BitVec 2
  | .untranslated => 0b00
  | .translationReq => 0b01
  | .translated => 0b10

/-- FRCD_LO of an address-translation fault (R486): the page address of the faulting page. -/
def atRecordLo (r : FaultReq) : Word64 := r.addr &&& ~~~0xFFF#64

/-- FRCD_HI of an address-translation fault, without F (R486). -/
def atRecordHi (p : Params) (f : AtFault) (r : FaultReq) : Word64 :=
  r.sid.setWidth 64 ||| (atReason p f).setWidth 64 <<< 32 ||| (atCode r.atype).setWidth 64 <<< 60
    ||| boolBits 64 r.isRead <<< 62

/-- FRCD_LO of an interrupt-remapping fault (R486, D45): the low 16 bits of the index, if one was computed. -/
def irRecordLo : Option Nat → Word64
  | none => 0
  | some i => (BitVec.ofNat 16 i).setWidth 64 <<< 48

/-- FRCD_HI of an interrupt-remapping fault, without F (R486). -/
def irRecordHi (p : Params) (f : IrFault) (sid : BitVec 16) : Word64 :=
  sid.setWidth 64 ||| (irReason p f).setWidth 64 <<< 32

/-- recordPrimaryFault(hi, lo) (R485, D20): the block's way of TAKING a fault. The slot is occupied iff PPF is 1. -/
def recordPrimaryFault (s : State) (hi lo : Word64) : State :=
  if s.flag .ppf then s.setFlag .pfo true
  else
    let s1 := (s.setReg64 .frcdLo lo).setReg64 .frcdHi (hi ||| 1#64 <<< 63)
    let s2 := s1.setFlag .ppf true
    raiseEvent (s2.setReg32 .fsts (setField (s2.reg32 .fsts) 8 0#8)) .fault

/-- recordAddressTranslationFault (R488, R490). -/
def recordAtFault (s : State) (f : AtFault) (r : FaultReq) (fpd : Bool) : State :=
  let s1 := s.withDiag (.at f)
  if atQualified f && fpd then s1 else recordPrimaryFault s1 (atRecordHi s.params f r) (atRecordLo r)

/-- recordInterruptRemapFault (R488, R491). -/
def recordIrFault (s : State) (f : IrFault) (sid : BitVec 16) (index : Option Nat) (fpd : Bool) : State :=
  let s1 := s.withDiag (.ir f)
  if irQualified f && fpd then s1 else recordPrimaryFault s1 (irRecordHi s.params f sid) (irRecordLo index)

/-- recordInvalidationQueueError (R495): FPD never applies and FRCD is not touched. -/
def recordIqError (s : State) (e : IqError) : State :=
  raiseEvent (((s.withDiag (.iq e)).setFlag .iqe true).setReg64 .iqercd ((iqei e).setWidth 64)) .fault

/-- R266: when no fault status is left, the fault event is no longer pending. -/
def dropFaultPending (s : State) : State := if s.fstsClear then s.setFlag .feIp false else s

/-- The end of a fault, the block's counterpart of a return (R264, R487): software has cleared `FRCD_HI.F`, so the slot
is free again. -/
def releaseFaultRecord (s : State) : State := dropFaultPending (s.setFlag .ppf false)

/-! ### Requests -/

/-- The snapshot step of a request (R156, R291, R361). -/
def takeSnap (s : State) : Snap where
  tes := s.flag .tes
  ires := s.flag .ires
  cfis := s.flag .cfis
  rt := s.activeRtaddr
  irta := s.activeIrta
  cap := s.reg64 .cap
  ecap := s.reg64 .ecap

/-- The operation a request is the call of. -/
def Request.instr : Request → Instr
  | .translate sid addr len flags atype => .dmaTranslate sid addr len flags atype
  | .bulk sid flags addrs => .dmaBulk sid flags addrs
  | .remapCompat sid msiAddr msiData => .irqRemapCompat sid msiAddr msiData
  | .remap sid msiAddr msiData => .irqRemap sid msiAddr msiData

/-- The precondition of a request (R290, R330, D37); an interrupt request has none. -/
def Request.pre : Request → Bool
  | .translate _ addr len flags _ => translatePre addr len flags
  | .bulk _ flags addrs => bulkPre flags addrs
  | .remapCompat _ _ _ => true
  | .remap _ _ _ => true

/-- The record step of a request (R156, R322, R490, R491), and the reply to its caller. -/
def recordWalked (s : State) (req : Request) (w : Walked) : State :=
  match w with
  | .done r => s.reply ⟨some req.instr, r⟩
  | .abort earlier => s.reply ⟨some req.instr, .fail earlier⟩
  | .atFault f r fpd earlier => (recordAtFault s f r fpd).reply ⟨some req.instr, .fail earlier⟩
  | .irFault f sid index fpd => (recordIrFault s f sid index fpd).reply ⟨some req.instr, .fail []⟩

/-! ### Waking the worker -/

/-- The byte offset a queue pointer register holds (R55, R56). -/
def queueOffset (v : Word64) : Nat := (v &&& 0x7FFF0).toNat

/-- WakeIfPending() (R431, D28). -/
def wakeIfPending (s : State) : State :=
  if queueOffset (s.reg64 .iqh) ≠ queueOffset (s.reg64 .iqt) ∧ s.flag .iqe = false then s.withWake true else s

end Sys2Proof.Machine
end

