-- ==== Sys2Proof/Machine/Gcmd.lean ====
section
/-! DEFINITION. The global command state machine (43_global_command.md): one meaning per command row, and the GCMD write
handler of R401, which acts on every command bit of the written word. -/

namespace Sys2Proof.Machine

/-- A level command that only sets or clears its status bit (R403, R407): TE, IRE, CFI. -/
def setLevel (f : Flag) (on : Bool) (s : State) : State := if s.flag f = on then s else s.setFlag f on

/-- The QIE command (R401, R404): enabling wakes the worker when there is work, disabling resets the queue head;
repeating the current state does nothing (R403). -/
def setQie (on : Bool) (s : State) : State :=
  if s.flag .qies = on then s
  else if on then wakeIfPending (s.setFlag .qies true)
  else (s.setFlag .qies false).setReg64 .iqh 0

/-- SRTP (R405): the lazily activated root pointer is captured whole and RTPS set. -/
def captureRoot (s : State) : State := (s.withActiveRtaddr (s.reg64 .rtaddr)).setFlag .rtps true

/-- SIRTP (R406): the lazily activated interrupt-remap-table pointer is captured whole and IRTPS set. -/
def captureIrt (s : State) : State := (s.withActiveIrta (s.reg64 .irta)).setFlag .irtps true

/-- GCMD_TE_SET (R407). -/
def execGcmdTeSet (s : State) : Out := .next (setLevel .tes true s)

/-- GCMD_TE_CLR (R407). -/
def execGcmdTeClr (s : State) : Out := .next (setLevel .tes false s)

/-- GCMD_QIE_SET (R404). -/
def execGcmdQieSet (s : State) : Out := .next (setQie true s)

/-- GCMD_QIE_CLR (R404). -/
def execGcmdQieClr (s : State) : Out := .next (setQie false s)

/-- GCMD_IRE_SET (R407). -/
def execGcmdIreSet (s : State) : Out := .next (setLevel .ires true s)

/-- GCMD_IRE_CLR (R407). -/
def execGcmdIreClr (s : State) : Out := .next (setLevel .ires false s)

/-- GCMD_CFI_SET (R407). -/
def execGcmdCfiSet (s : State) : Out := .next (setLevel .cfis true s)

/-- GCMD_CFI_CLR (R407). -/
def execGcmdCfiClr (s : State) : Out := .next (setLevel .cfis false s)

/-- GCMD_SRTP (R405). -/
def execGcmdSrtp (s : State) : Out := .next (captureRoot s)

/-- GCMD_SIRTP (R406). -/
def execGcmdSirtp (s : State) : Out := .next (captureIrt s)

/-- GCMD_SFL (R401): ignored. -/
def execGcmdSfl (s : State) : Out := .next s

/-- GCMD_EAFL (R401): ignored. -/
def execGcmdEafl (s : State) : Out := .next s

/-- GCMD_WBF (R401): ignored. -/
def execGcmdWbf (s : State) : Out := .next s

/-- handler_GCMD (R401) on the written word, in the order of R401; WBF, EAFL, SFL and bits 22:0 have no effect. -/
def gcmdHandler (w : Word32) (s : State) : State :=
  let s1 := setQie (w.getLsbD 26) s
  let s2 := setLevel .ires (w.getLsbD 25) s1
  let s3 := setLevel .cfis (w.getLsbD 23) s2
  let s4 := if w.getLsbD 30 then captureRoot s3 else s3
  let s5 := if w.getLsbD 24 then captureIrt s4 else s4
  setLevel .tes (w.getLsbD 31) s5

end Sys2Proof.Machine
end

