-- ==== Sys2Proof/Machine/Mmio.lean ====
section
/-! DEFINITION. The register access layer (40_register_access.md): the write handlers (R250 to R266) and the meanings of
the four MMIO operations (R245 to R249). -/

namespace Sys2Proof.Machine

/-- CCMD handler (R262, D33): a requested context-cache invalidation completes at once. -/
def ccmdHandler (new : Word64) (s : State) : State :=
  if new.getLsbD 63 then s.setReg64 .ccmd (setBit (setField (s.reg64 .ccmd) 59 (field new 61 2)) 63 false) else s

/-- IOTLB handler (R263, D33): a requested IOTLB invalidation completes at once. -/
def iotlbHandler (new : Word64) (s : State) : State :=
  if new.getLsbD 63 then s.setReg64 .iotlb (setBit (setField (s.reg64 .iotlb) 57 (field new 60 2)) 63 false) else s

/-- IQT handler (R431 (b), D28): wakes the worker while processing is possible. -/
def iqtHandler (s : State) : State := if s.flag .qies && !s.flag .iqe then s.withWake true else s

/-- ICS handler (R265): clearing IWC withdraws a pending completion event. -/
def icsHandler (old new : Bool) (s : State) : State := if old && !new then s.setFlag .ieIp false else s

/-- FRCD_HI handler (R264): clearing F frees the fault slot. -/
def frcdHiHandler (old new : Bool) (s : State) : State := if old && !new then releaseFaultRecord s else s

/-- Runs a register's handler if the access overlaps the register (R250). -/
def onOverlap (x : Reg) (off n : Nat) (h : State → State) (s : State) : State := if overlaps x off n then h s else s

/-- RunHandlers (R250, R251): the handlers of the registers the access `[off, off + n)` of value `v` overlaps, in
ascending offset order. `before` and `after` are the register files before and after the masked write. -/
def runHandlers (before after : RegFile) (off n : Nat) (v : Word64) (s : State) : State :=
  let s1 := onOverlap .gcmd off n (gcmdHandler (written32 off n v Reg.gcmd.off)) s
  let s2 := onOverlap .ccmd off n (ccmdHandler (after.read64 Reg.ccmd.off)) s1
  let s3 := onOverlap .fsts off n dropFaultPending s2
  let s4 := onOverlap .fectl off n (fun t => deliverOnUnmask t .fault (before.flag .feIm) (after.flag .feIm)) s3
  let s5 := onOverlap .iqt off n iqtHandler s4
  let s6 := onOverlap .ics off n (icsHandler (before.flag .iwc) (after.flag .iwc)) s5
  let s7 := onOverlap .iectl off n (fun t => deliverOnUnmask t .invCompletion (before.flag .ieIm) (after.flag .ieIm)) s6
  let s8 := onOverlap .iotlb off n (iotlbHandler (after.read64 Reg.iotlb.off)) s7
  onOverlap .frcdHi off n (frcdHiHandler (before.flag .frcdF) (after.flag .frcdF)) s8

/-- The state after an MMIO write of 4 bytes (R248); a rejected access changes nothing (R247). -/
def mmioWrite32 (s : State) (off : Nat) (v : Word32) : State :=
  if accepted s.regs.win off 4 then
    let after := s.regs.semWrite32 s.params off v
    runHandlers s.regs after off 4 (v.setWidth 64) (s.withRegs after)
  else s

/-- The state after an MMIO write of 8 bytes (R249); a rejected access changes nothing (R247). -/
def mmioWrite64 (s : State) (off : Nat) (v : Word64) : State :=
  if accepted s.regs.win off 8 then
    let after := s.regs.semWrite64 s.params off v
    runHandlers s.regs after off 8 v (s.withRegs after)
  else s

/-- The value of an MMIO read of 4 bytes (R245); a rejected read gives all-ones (R132, R247). -/
def mmioRead32 (r : RegFile) (off : Nat) : Word32 := if accepted r.win off 4 then r.read32 off else 0xFFFFFFFF

/-- The value of an MMIO read of 8 bytes (R246); a rejected read gives all-ones (R132, R247). -/
def mmioRead64 (r : RegFile) (off : Nat) : Word64 :=
  if accepted r.win off 8 then r.read64 off else 0xFFFFFFFFFFFFFFFF

/-- MMIO_R32 (R245). -/
def execMmioR32 (off : BitVec 12) (s : State) : Out :=
  .next (s.reply ⟨some (.mmioR32 off), .read32 (mmioRead32 s.regs off.toNat)⟩)

/-- MMIO_R64 (R246). -/
def execMmioR64 (off : BitVec 12) (s : State) : Out :=
  .next (s.reply ⟨some (.mmioR64 off), .read64 (mmioRead64 s.regs off.toNat)⟩)

/-- MMIO_W32 (R248). -/
def execMmioW32 (off : BitVec 12) (v : Word32) (s : State) : Out := .next (mmioWrite32 s off.toNat v)

/-- MMIO_W64 (R249). -/
def execMmioW64 (off : BitVec 12) (v : Word64) (s : State) : Out := .next (mmioWrite64 s off.toNat v)

/-- An MMIO access of a size other than 4 or 8 (R131, R132, R221): never accepted; a read returns all-ones. -/
def oddAccess (isWrite : Bool) (n : Nat) (s : State) : Out :=
  if n == 4 || n == 8 then .refused .notEnabled
  else if isWrite then .next s
  else .next (s.reply ⟨none, .unused n⟩)

end Sys2Proof.Machine
end

