-- ==== Sys2Proof/Machine/Queue.lean ====
section
/-! DEFINITION. The descriptors of the invalidation queue (44_invalidation_queue.md, R440 to R456): what the worker's
`W_DISPATCH` step does with each. -/

namespace Sys2Proof.Machine

/-- One more descriptor of an acknowledged type counted (R70, R447). -/
def Stats.count (c : Stats) : AckType → Stats
  | .ccInv => { c with ccInv := c.ccInv + 1 }
  | .iotlbInv => { c with iotlbInv := c.iotlbInv + 1 }
  | .devTlbInv => { c with devTlbInv := c.devTlbInv + 1 }
  | .iecInv => { c with iecInv := c.iecInv + 1 }
  | .pIotlbInv => { c with pIotlbInv := c.pIotlbInv + 1 }
  | .pcInv => { c with pcInv := c.pcInv + 1 }
  | .pDevTlbInv => { c with pDevTlbInv := c.pDevTlbInv + 1 }

/-- An acknowledged descriptor (R447): counted, and the next one is up; no field is read. -/
def acknowledge (t : AckType) (s : State) : Out :=
  match s.wphase with
  | .dispatching snap descs i .start =>
    .next ((s.withStats (s.stats.count t)).withPhase (.dispatching snap descs (i + 1) .start))
  | _ => .refused .noBatch

/-- A queue error during dispatch (R456): the rest of the batch is never dispatched. -/
def stopBatch (s : State) (e : IqError) : State := (recordIqError s e).withPhase .idle

/-- An unrecognised descriptor type (R446). -/
def rejectType (s : State) : Out :=
  match s.wphase with
  | .dispatching _ _ _ .start => .next (stopBatch s .dscTypeInvalid)
  | _ => .refused .noBatch

/-- DSC_CC_INV (R447). -/
def execDscCcInv (_ : Desc) (s : State) : Out := acknowledge .ccInv s

/-- DSC_IOTLB_INV (R447). -/
def execDscIotlbInv (_ : Desc) (s : State) : Out := acknowledge .iotlbInv s

/-- DSC_DEV_TLB_INV (R447). -/
def execDscDevTlbInv (_ : Desc) (s : State) : Out := acknowledge .devTlbInv s

/-- DSC_IEC_INV (R447). -/
def execDscIecInv (_ : Desc) (s : State) : Out := acknowledge .iecInv s

/-- DSC_P_IOTLB_INV (R447). -/
def execDscPIotlbInv (_ : Desc) (s : State) : Out := acknowledge .pIotlbInv s

/-- DSC_PC_INV (R447). -/
def execDscPcInv (_ : Desc) (s : State) : Out := acknowledge .pcInv s

/-- DSC_P_DEV_TLB_INV (R447). -/
def execDscPDevTlbInv (_ : Desc) (s : State) : Out := acknowledge .pDevTlbInv s

/-- The reserved-bit check of a wait descriptor (R451, R212). -/
def waitRsvd (pds : Bool) (d : Desc) : Bool :=
  d.qw0 &&& ~~~(waitQw0Valid pds) != 0 || d.qw1 &&& ~~~waitQw1Valid != 0

/-- The address of a wait descriptor's status write, `STADDR << 2` (R452). -/
def waitStatusAddr (d : Desc) : Word64 := d.qw1 &&& ~~~0x3#64

/-- The four bytes of a wait descriptor's status data (R452). -/
def waitStatusBytes (d : Desc) : List Byte := bytes32 (field d.qw0 32 32)

/-- The status write of a wait descriptor, if its SW flag asks for one (R452). -/
def waitStatusWrite (s : State) (d : Desc) : State × Bool :=
  if d.qw0.getLsbD 5 then memWrite s (waitStatusAddr d) (waitStatusBytes d) else (s, true)

/-- DSC_INV_WAIT (R450 to R455): reserved bits, status write, then either the SIGNAL stage or the next descriptor. FN and
an accepted PD have no effect (R454, R455). -/
def execDscInvWait (d : Desc) (s : State) : Out :=
  match s.wphase with
  | .dispatching snap descs i .start =>
    if waitRsvd s.ecapPds d then .next (stopBatch s .waitRsvd)
    else
      match waitStatusWrite s d with
      | (s1, false) => .next (stopBatch s1 .waitStatusWriteFailed)
      | (s1, true) =>
        if d.qw0.getLsbD 4 then .next (s1.withPhase (.dispatching snap descs i .signal))
        else .next (s1.withPhase (.dispatching snap descs (i + 1) .start))
  | _ => .refused .noBatch

/-- DSC_RSVD_00 (R446). -/
def execDscRsvd00 (_ : Desc) (s : State) : Out := rejectType s

/-- DSC_RSVD_09_ODD (R446). -/
def execDscRsvd09Odd (_ : Desc) (s : State) : Out := rejectType s

/-- DSC_RSVD_0A_0E (R446). -/
def execDscRsvd0A0E (_ : Desc) (s : State) : Out := rejectType s

/-- DSC_RSVD_0C (R446). -/
def execDscRsvd0C (_ : Desc) (s : State) : Out := rejectType s

/-- DSC_RSVD_T4 (R446). -/
def execDscRsvdT4 (_ : Desc) (s : State) : Out := rejectType s

/-- DSC_RSVD_T5 (R446). -/
def execDscRsvdT5 (_ : Desc) (s : State) : Out := rejectType s

/-- DSC_RSVD_T6 (R446). -/
def execDscRsvdT6 (_ : Desc) (s : State) : Out := rejectType s

end Sys2Proof.Machine
end

