-- ==== Sys2Proof/Machine/Dma.lean ====
section
/-! DEFINITION. The DMA address-translation engine (41_dma_remapping.md): the walk, which reads only the snapshot and
guest memory (R156, item 2). Each walk function answers its result and the memory answers left. -/

namespace Sys2Proof.Machine

/-- What one page lookup finds (R294): the output address, the page size in bytes, the permissions, the domain ID, and
whether the context entry is pass-through. -/
structure PageHit where
  out : Word64
  psize : Nat
  perm : Perm
  did : BitVec 16
  isPt : Bool
  deriving DecidableEq, Repr

/-- A leaf of the second-level walk: output address, page size, permissions (R314). -/
structure SlLeaf where
  out : Word64
  psize : Nat
  perm : Perm
  deriving DecidableEq, Repr

/-- A translated range (R290, R320). -/
structure Range where
  base : Word64
  clen : Nat
  perm : Perm
  did : BitVec 16
  deriving DecidableEq, Repr

/-- SLPermCheck, then SLRsvdCheck (R312, R313): write before read, permission before reserved bits. -/
def slCheck (p : Params) (cap : Word64) (flags eff : Perm) (e : Word64) (level : Nat) : Option AtFault :=
  if flags.write && !eff.write then some .slWriteDenied
  else if flags.read && !eff.read then some .slReadDenied
  else if e &&& slRsvdMask p cap e level != 0 then some .slRsvd
  else none

/-- SLLeaf with the output-window check (R314, R315). -/
def slLeaf (p : Params) (addr e : Word64) (level : Nat) (eff : Perm) : Except AtFault SlLeaf :=
  let out := slOutput e addr level
  if inIrqWindow p out addr (slPageSize level) then .error .outInWindow
  else .ok ⟨out, slPageSize level, eff⟩

/-- SLRead and the checks of one entry (R310 to R313): the entry and the permissions left. -/
def slEntry (p : Params) (m : Memory) (cap : Word64) (flags : Perm) (addr table : Word64) (eff : Perm) (level : Nat)
    (o : List MemAnswer) : Except AtFault (Word64 × Perm) × List MemAnswer :=
  match memRead64 m o (table + (slIndex addr level).setWidth 64 <<< 3) with
  | (none, o') => (.error .slReadFailed, o')
  | (some e, o') =>
    match slCheck p cap flags (permInter eff (entryPerm e)) e level with
    | some f => (.error f, o')
    | none => (.ok (e, permInter eff (entryPerm e)), o')

/-- The walk loop of R310 from a level down; an entry at level 0 is always a leaf. -/
def slWalk (p : Params) (m : Memory) (cap : Word64) (flags : Perm) (addr : Word64) :
    Nat → Word64 → Perm → List MemAnswer → Except AtFault SlLeaf × List MemAnswer
  | 0, table, eff, o =>
    match slEntry p m cap flags addr table eff 0 o with
    | (.error f, o') => (.error f, o')
    | (.ok (e, eff'), o') => (slLeaf p addr e 0 eff', o')
  | level + 1, table, eff, o =>
    match slEntry p m cap flags addr table eff (level + 1) o with
    | (.error f, o') => (.error f, o')
    | (.ok (e, eff'), o') =>
      if slIsLeaf (level + 1) e then (slLeaf p addr e (level + 1) eff', o')
      else slWalk p m cap flags addr level (entryAddr e &&& hawMask p) eff' o'

/-- The second-level path of a context entry (R307, R308, R310): address type, address width, input address, walk. -/
def slLookup (p : Params) (m : Memory) (cap : Word64) (flags : Perm) (atype : AddrType) (addr q0 q1 : Word64)
    (o : List MemAnswer) : Except AtFault SlLeaf × List MemAnswer :=
  if atype ≠ .untranslated then (.error .ttBlocked, o)
  else if !awValid cap (ctxAw q1) then (.error .ctxAwInvalid, o)
  else if addr &&& mgawInvalidMask p != 0 || decide (2 ^ (12 + 9 * ((ctxAw q1).toNat + 2)) ≤ addr.toNat) then
    (.error .addrBeyondWidth, o)
  else slWalk p m cap flags addr ((ctxAw q1).toNat + 1) (q0 &&& hawMask p) permFull o

/-- The translation-type branch after the context checks (R304 to R307). -/
def ctxBranch (p : Params) (m : Memory) (sn : Snap) (flags : Perm) (atype : AddrType) (addr q0 q1 : Word64)
    (o : List MemAnswer) : Except AtFault PageHit × List MemAnswer :=
  if ctxTt q0 = 0b00 then
    match slLookup p m sn.cap flags atype addr q0 q1 o with
    | (.error f, o') => (.error f, o')
    | (.ok l, o') => (.ok ⟨l.out, l.psize, l.perm, ctxDid p q1, false⟩, o')
  else if ctxTt q0 = 0b10 ∧ sn.ecap.getLsbD 6 = true ∧ awValid sn.cap (ctxAw q1) = true then
    (.ok ⟨addr, 0, permFull, ctxDid p q1, true⟩, o)
  else (.error .ctxTtInvalid, o)

/-- LookupPage (R294, R300 to R316): a fault comes with the captured FPD flag (false until the context entry has been
read, R301, R302). A pass-through hit has no page size (0). -/
def lookupPage (p : Params) (m : Memory) (sn : Snap) (sid : BitVec 16) (flags : Perm) (atype : AddrType)
    (addr : Word64) (o : List MemAnswer) : Except (AtFault × Bool) PageHit × List MemAnswer :=
  match memRead128 m o ((sn.rt &&& hawMask p) + (sidBus sid).setWidth 64 <<< 4) with
  | (none, o1) => (.error (.rootReadFailed, false), o1)
  | (some (r0, r1), o1) =>
    if !r0.getLsbD 0 then (.error (.rootNotPresent, false), o1)
    else if rootRsvd p r0 r1 then (.error (.rootRsvd, false), o1)
    else
      match memRead128 m o1 ((r0 &&& hawMask p) + (sidDevfn sid).setWidth 64 <<< 4) with
      | (none, o2) => (.error (.ctxReadFailed, false), o2)
      | (some (q0, q1), o2) =>
        if !q0.getLsbD 0 then (.error (.ctxNotPresent, q0.getLsbD 1), o2)
        else if ctxRsvd p q0 q1 then (.error (.ctxRsvd, q0.getLsbD 1), o2)
        else
          match ctxBranch p m sn flags atype addr q0 q1 o2 with
          | (.error f, o3) => (.error (f, q0.getLsbD 1), o3)
          | (.ok h, o3) => (.ok h, o3)

/-- The fault of a page of a request (R16, R486): the sub-request's address is the page's, and `rtype` is WRITE iff WRITE
was asked for (R75). -/
def pageFault (sid : BitVec 16) (flags : Perm) (atype : AddrType) (addr : Word64) (e : AtFault × Bool) : Walked :=
  .atFault e.1 ⟨sid, addr, atype, !flags.write⟩ e.2 []

/-- The loop of R320 over the second and later pages. `fuel` bounds the number of pages: the length in bytes is
enough. -/
def morePages (p : Params) (m : Memory) (sn : Snap) (sid : BitVec 16) (flags : Perm) (atype : AddrType)
    (addr base : Word64) (len : Nat) (did : BitVec 16) :
    Nat → Nat → Perm → List MemAnswer → Except Walked Range × List MemAnswer
  | 0, done, perm, o => (.ok ⟨base, done, perm, did⟩, o)
  | fuel + 1, done, perm, o =>
    if len ≤ done then (.ok ⟨base, done, perm, did⟩, o)
    else
      let a := addr + BitVec.ofNat 64 done
      match lookupPage p m sn sid flags atype a o with
      | (.error e, o') => (.error (pageFault sid flags atype a e), o')
      | (.ok h, o') =>
        if h.isPt ∨ h.out ≠ base + BitVec.ofNat 64 done then (.ok ⟨base, done, perm, did⟩, o')
        else
          morePages p m sn sid flags atype addr base len did fuel (done + min (len - done) h.psize) (permInter perm h.perm) o'

/-- The legacy multi-page procedure (R320). -/
def legacyRange (p : Params) (m : Memory) (sn : Snap) (sid : BitVec 16) (addr : Word64) (len : Nat) (flags : Perm)
    (atype : AddrType) (o : List MemAnswer) : Except Walked Range × List MemAnswer :=
  match lookupPage p m sn sid flags atype addr o with
  | (.error e, o') => (.error (pageFault sid flags atype addr e), o')
  | (.ok h, o') =>
    if h.isPt then (.ok ⟨addr, len, permFull, h.did⟩, o')
    else
      morePages p m sn sid flags atype addr h.out len h.did len (min len (h.psize - addr.toNat % h.psize)) h.perm o'

/-- The walk of `translateAccess` under a snapshot (R292, R293, R296 to R298). -/
def walkRange (p : Params) (m : Memory) (sn : Snap) (sid : BitVec 16) (addr : Word64) (len : Nat) (flags : Perm)
    (atype : AddrType) (o : List MemAnswer) : Except Walked Range × List MemAnswer :=
  if !sn.tes then (.ok ⟨addr, len, permFull, 0⟩, o)
  else if rtTtm sn.rt = 0b00 then legacyRange p m sn sid addr len flags atype o
  else if rtTtm sn.rt = 0b01 then (.error (pageFault sid flags atype addr (.ttmScalable, false)), o)
  else if rtTtm sn.rt = 0b10 then (.error (pageFault sid flags atype addr (.ttmReserved, false)), o)
  else if sn.ecap.getLsbD 50 then (.error (.abort []), o)
  else (.error (pageFault sid flags atype addr (.ttmAbortUnsupported, false)), o)

/-- The walk of DMA_TRANSLATE, as the record step takes it. -/
def walkTranslate (p : Params) (m : Memory) (sn : Snap) (sid : BitVec 16) (addr len : Word64) (flags : Perm)
    (atype : AddrType) (o : List MemAnswer) : Walked × List MemAnswer :=
  match walkRange p m sn sid addr len.toNat flags atype o with
  | (.error w, o') => (w, o')
  | (.ok r, o') => (.done (.translated r.base r.clen r.perm r.did), o')

/-- The outputs that a failing bulk call returns, of those computed before the failure: all of them as 92 D46 says, or none as
R330 says, by the parameter `bulkEarlier` (DESIGN CHOICE, assumption 27). -/
def earlierOutputs (p : Params) (outs : List Word64) : List Word64 := if p.bulkEarlier then outs else []

/-- A failing walk of a bulk call, together with the outputs computed before it. -/
def Walked.withEarlier (w : Walked) (outs : List Word64) : Walked :=
  match w with
  | .atFault f r fpd _ => .atFault f r fpd outs
  | .done r => .done r
  | .abort _ => .abort outs
  | .irFault f sid index fpd => .irFault f sid index fpd

/-- The walks of `translateBulk` (R330): one 4 KiB request per address, in order, up to the first failure, which ends the
call; `outs` holds the outputs so far. Of one address it is the walk of one element (R156). -/
def walkBulk (p : Params) (m : Memory) (sn : Snap) (sid : BitVec 16) (flags : Perm) :
    List Word64 → List Word64 → List MemAnswer → Walked × List MemAnswer
  | [], outs, o => (.done (.bulk outs), o)
  | a :: rest, outs, o =>
    match walkRange p m sn sid a 4096 flags .untranslated o with
    | (.error w, o') => (w.withEarlier (earlierOutputs p outs), o')
    | (.ok r, o') => walkBulk p m sn sid flags rest (outs ++ [r.base]) o'

end Sys2Proof.Machine
end

