-- ==== Sys2Proof/Machine/Irq.lean ====
section
/-! DEFINITION. The interrupt-remapping lookup engine (42_interrupt_remapping.md): the walk, which reads only the snapshot
and guest memory (R156, item 2). -/

namespace Sys2Proof.Machine

/-- The walk of a compatibility-format request (R362, R363). -/
def walkCompat (sn : Snap) (sid : BitVec 16) (msiAddr : Word64) (msiData : Word32) : Walked :=
  if !sn.ires then .done (.msi msiAddr msiData)
  else if sn.cfis && !irEime sn.irta then .done (.msi msiAddr msiData)
  else .irFault .compatBlocked sid none false

/-- Source validation (R369, R370, R197): the fault it raises, if any. -/
def sourceCheck (sid : BitVec 16) (q1 : Word64) : Option IrFault :=
  let svt : BitVec 2 := field q1 18 2
  let isid : BitVec 16 := field q1 0 16
  let mask := sqMask (field q1 16 2)
  if svt = 0b11 then some .svtReserved
  else if svt = 0b01 then (if sid &&& mask ≠ isid &&& mask then some .sidMismatch else none)
  else if svt = 0b10 then
    (if sidBus sid < sidBus isid ∨ sidDevfn isid < sidBus sid then some .busOutOfRange else none)
  else none

/-- The checks of a fetched IRTE in the order of R374: present, reserved bits, source validation, posted. -/
def irteCheck (eime : Bool) (sid : BitVec 16) (q0 q1 : Word64) : Option IrFault :=
  if !q0.getLsbD 0 then some .irteNotPresent
  else if q0 &&& irteQw0Rsvd eime != 0 || q1 &&& irteQw1Rsvd != 0 then some .irteRsvd
  else
    match sourceCheck sid q1 with
    | some f => some f
    | none => if q0.getLsbD 15 then some .posted else none

/-- The address of the remapped MSI (R372, R198, D26). -/
def remappedAddr (eime : Bool) (q0 : Word64) : Word64 :=
  0x00000000FEE00000#64 ||| boolBits 64 (q0.getLsbD 3) <<< 3 ||| boolBits 64 (q0.getLsbD 2) <<< 2 |||
    (if eime then (field q0 32 8).setWidth 64 <<< 12 ||| (field q0 40 24).setWidth 64 <<< 40
     else (field q0 40 8).setWidth 64 <<< 12)

/-- The data of the remapped MSI (R372, R198, D26). -/
def remappedData (p : Params) (q0 : Word64) : Word32 :=
  (field q0 16 8).setWidth 32 ||| (field q0 5 3).setWidth 32 <<< 8 ||| boolBits 32 p.irLevel <<< 14
    ||| boolBits 32 (q0.getLsbD 4) <<< 15

/-- The walk of a remappable-format request (R362, R364 to R372). -/
def walkRemap (p : Params) (m : Memory) (sn : Snap) (sid : BitVec 16) (msiAddr : Word64) (msiData : Word32)
    (o : List MemAnswer) : Walked × List MemAnswer :=
  if !sn.ires then (.done (.msi msiAddr msiData), o)
  else
    let index := irIndex msiAddr msiData
    if irTableSize sn.irta ≤ index then (.irFault .indexOutOfRange sid (some index) false, o)
    else
      match memRead128 m o ((sn.irta &&& hawMask p) + BitVec.ofNat 64 index <<< 4) with
      | (none, o') => (.irFault .irteReadFailed sid (some index) false, o')
      | (some (q0, q1), o') =>
        match irteCheck (irEime sn.irta) sid q0 q1 with
        | some f => (.irFault f sid (some index) (q0.getLsbD 1), o')
        | none => (.done (.msi (remappedAddr (irEime sn.irta) q0) (remappedData p q0)), o')

end Sys2Proof.Machine
end

