-- ==== Sys2Proof/Machine/Requests.lean ====
section
/-! DEFINITION. The requests as operations: the meanings of DMA_TRANSLATE, DMA_BULK, IRQ_REMAP_COMPAT and IRQ_REMAP, in
which no other agent's step falls between snapshot, walk and record; and the same three steps one by one, for a bulk call
element by element (R156). -/

namespace Sys2Proof.Machine

/-- The walk of a request under a snapshot (R156, item 2). -/
def walkRequest (p : Params) (m : Memory) (sn : Snap) (o : List MemAnswer) : Request → Walked × List MemAnswer
  | .translate sid addr len flags atype => walkTranslate p m sn sid addr len flags atype o
  | .bulk sid flags addrs => walkBulk p m sn sid flags addrs [] o
  | .remapCompat sid msiAddr msiData => (walkCompat sn sid msiAddr msiData, o)
  | .remap sid msiAddr msiData => walkRemap p m sn sid msiAddr msiData o

/-- A request run to its end: snapshot, walk, record. With nothing between, every element of a bulk call has the same
snapshot, so that R156 ("each element") and R330 ("one snapshot step") agree here. -/
def runRequest (s : State) (r : Request) : State :=
  let w := walkRequest s.params s.mem (takeSnap s) s.oracle r
  recordWalked (s.withOracle w.2) r w.1

/-- DMA_TRANSLATE (R290). -/
def execDmaTranslate (sid : BitVec 16) (addr len : Word64) (flags : Perm) (atype : AddrType) (s : State) : Out :=
  if translatePre addr len flags then .next (runRequest s (.translate sid addr len flags atype))
  else .refused .precondition

/-- DMA_BULK (R330). -/
def execDmaBulk (sid : BitVec 16) (flags : Perm) (addrs : List Word64) (s : State) : Out :=
  if bulkPre flags addrs then .next (runRequest s (.bulk sid flags addrs)) else .refused .precondition

/-- IRQ_REMAP_COMPAT (R360, R363). -/
def execIrqRemapCompat (sid : BitVec 16) (msiAddr : Word64) (msiData : Word32) (s : State) : Out :=
  .next (runRequest s (.remapCompat sid msiAddr msiData))

/-- IRQ_REMAP (R360, R364). -/
def execIrqRemap (sid : BitVec 16) (msiAddr : Word64) (msiData : Word32) (s : State) : Out :=
  .next (runRequest s (.remap sid msiAddr msiData))

/-- The request an operation is the call of; the other operations are never split (R133, R432). -/
def requestOf : Instr → Option Request
  | .dmaTranslate sid addr len flags atype => some (.translate sid addr len flags atype)
  | .dmaBulk sid flags addrs => some (.bulk sid flags addrs)
  | .irqRemapCompat sid msiAddr msiData => some (.remapCompat sid msiAddr msiData)
  | .irqRemap sid msiAddr msiData => some (.remap sid msiAddr msiData)
  | .mmioR32 _ | .mmioR64 _ | .mmioW32 _ _ | .mmioW64 _ _ => none
  | .gcmdTeSet | .gcmdTeClr | .gcmdQieSet | .gcmdQieClr | .gcmdIreSet | .gcmdIreClr | .gcmdCfiSet | .gcmdCfiClr => none
  | .gcmdSrtp | .gcmdSirtp | .gcmdSfl | .gcmdEafl | .gcmdWbf => none
  | .dscCcInv _ | .dscIotlbInv _ | .dscDevTlbInv _ | .dscIecInv _ | .dscPIotlbInv _ | .dscPcInv _ => none
  | .dscPDevTlbInv _ | .dscInvWait _ | .dscRsvd00 _ | .dscRsvd09Odd _ | .dscRsvd0A0E _ | .dscRsvd0C _ => none
  | .dscRsvdT4 _ | .dscRsvdT5 _ | .dscRsvdT6 _ => none

/-- The snapshot step alone (R156, item 1): the request is then in flight. -/
def beginRequest (s : State) (i : Instr) : Out :=
  match requestOf i with
  | none => .refused .notEnabled
  | some r =>
    if r.pre then .next (s.withInflight (s.inflight ++ [⟨r, takeSnap s, [], none⟩])) else .refused .precondition

/-- The snapshot step of the next element of the `k`-th request in flight, a bulk call after its first element (R156, item 1:
each element has a snapshot of its own). The step is optional: R330 gives the call one snapshot, and the schedule says which
of the two a call does (DEDUCED, assumption 16). -/
def snapshotInFlight (s : State) (k : Nat) : Out :=
  match s.inflight[k]? with
  | some ⟨.bulk sid flags addrs, _, a :: outs, none⟩ =>
    .next (s.withInflight (s.inflight.set k ⟨.bulk sid flags addrs, takeSnap s, a :: outs, none⟩))
  | _ => .refused .notEnabled

/-- What one walk step of a request walks: all of it, or the next element of a bulk call that has the outputs
`outs`. -/
def walkPart (p : Params) (m : Memory) (sn : Snap) (outs : List Word64) (o : List MemAnswer) (r : Request) :
    Walked × List MemAnswer :=
  match r with
  | .bulk sid flags addrs => walkBulk p m sn sid flags ((addrs.drop outs.length).take 1) outs o
  | .translate sid addr len flags atype => walkTranslate p m sn sid addr len flags atype o
  | .remapCompat sid msiAddr msiData => (walkCompat sn sid msiAddr msiData, o)
  | .remap sid msiAddr msiData => walkRemap p m sn sid msiAddr msiData o

/-- The walk of the `k`-th request in flight (R156, item 2): it uses only its snapshot and guest memory. -/
def walkInFlight (s : State) (k : Nat) : Out :=
  match s.inflight[k]? with
  | some ⟨r, sn, outs, none⟩ =>
    let w := walkPart s.params s.mem sn outs s.oracle r
    .next ((s.withOracle w.2).withInflight (s.inflight.set k ⟨r, sn, outs, some w.1⟩))
  | _ => .refused .notEnabled

/-- The outputs so far, if a walk has ended an element of a bulk call that is not its last. -/
def unfinished : Request → Walked → Option (List Word64)
  | .bulk _ _ addrs, .done (.bulk outs) => if outs.length < addrs.length then some outs else none
  | _, _ => none

/-- The record step of the `k`-th request in flight (R156, item 3): a bulk call with elements left records nothing and goes
on to the next one; any other request is at its end, with the reply to its caller. -/
def recordInFlight (s : State) (k : Nat) : Out :=
  match s.inflight[k]? with
  | some ⟨r, sn, _, some w⟩ =>
    match unfinished r w with
    | some outs => .next (s.withInflight (s.inflight.set k ⟨r, sn, outs, none⟩))
    | none => .next (recordWalked (s.withInflight (s.inflight.eraseIdx k)) r w)
  | _ => .refused .notEnabled

end Sys2Proof.Machine
end

