-- ==== Sys2Proof/Machine/Dispatch.lean ====
section
/-! DEFINITION. The dispatch: one arm per constructor of Instr. -/

namespace Sys2Proof.Machine

/-- The meaning of an operation. -/
def exec (i : Instr) (s : State) : Host.Outcome State Fault Refusal :=
  match i with
  | .mmioR32 off => Sys2Proof.Machine.execMmioR32 off s
  | .mmioR64 off => Sys2Proof.Machine.execMmioR64 off s
  | .mmioW32 off v => Sys2Proof.Machine.execMmioW32 off v s
  | .mmioW64 off v => Sys2Proof.Machine.execMmioW64 off v s
  | .gcmdTeSet => Sys2Proof.Machine.execGcmdTeSet s
  | .gcmdTeClr => Sys2Proof.Machine.execGcmdTeClr s
  | .gcmdQieSet => Sys2Proof.Machine.execGcmdQieSet s
  | .gcmdQieClr => Sys2Proof.Machine.execGcmdQieClr s
  | .gcmdIreSet => Sys2Proof.Machine.execGcmdIreSet s
  | .gcmdIreClr => Sys2Proof.Machine.execGcmdIreClr s
  | .gcmdCfiSet => Sys2Proof.Machine.execGcmdCfiSet s
  | .gcmdCfiClr => Sys2Proof.Machine.execGcmdCfiClr s
  | .gcmdSrtp => Sys2Proof.Machine.execGcmdSrtp s
  | .gcmdSirtp => Sys2Proof.Machine.execGcmdSirtp s
  | .gcmdSfl => Sys2Proof.Machine.execGcmdSfl s
  | .gcmdEafl => Sys2Proof.Machine.execGcmdEafl s
  | .gcmdWbf => Sys2Proof.Machine.execGcmdWbf s
  | .dmaTranslate sid addr len flags atype => Sys2Proof.Machine.execDmaTranslate sid addr len flags atype s
  | .dmaBulk sid flags addrs => Sys2Proof.Machine.execDmaBulk sid flags addrs s
  | .irqRemapCompat sid msiAddr msiData => Sys2Proof.Machine.execIrqRemapCompat sid msiAddr msiData s
  | .irqRemap sid msiAddr msiData => Sys2Proof.Machine.execIrqRemap sid msiAddr msiData s
  | .dscCcInv d => Sys2Proof.Machine.execDscCcInv d s
  | .dscIotlbInv d => Sys2Proof.Machine.execDscIotlbInv d s
  | .dscDevTlbInv d => Sys2Proof.Machine.execDscDevTlbInv d s
  | .dscIecInv d => Sys2Proof.Machine.execDscIecInv d s
  | .dscPIotlbInv d => Sys2Proof.Machine.execDscPIotlbInv d s
  | .dscPcInv d => Sys2Proof.Machine.execDscPcInv d s
  | .dscPDevTlbInv d => Sys2Proof.Machine.execDscPDevTlbInv d s
  | .dscInvWait d => Sys2Proof.Machine.execDscInvWait d s
  | .dscRsvd00 d => Sys2Proof.Machine.execDscRsvd00 d s
  | .dscRsvd09Odd d => Sys2Proof.Machine.execDscRsvd09Odd d s
  | .dscRsvd0A0E d => Sys2Proof.Machine.execDscRsvd0A0E d s
  | .dscRsvd0C d => Sys2Proof.Machine.execDscRsvd0C d s
  | .dscRsvdT4 d => Sys2Proof.Machine.execDscRsvdT4 d s
  | .dscRsvdT5 d => Sys2Proof.Machine.execDscRsvdT5 d s
  | .dscRsvdT6 d => Sys2Proof.Machine.execDscRsvdT6 d s

end Sys2Proof.Machine
end

