-- ==== Sys2Proof/Machine/HostOps.lean ====
section
/-! DEFINITION. The host's steps: reset (R540, R542), state restore (R545) and worker shutdown (R546). -/

namespace Sys2Proof.Machine

/-- May a reset or a restore be taken? (R542, R545, D55) -/
def hostStepAllowed (s : State) : Bool := s.inflight.isEmpty && (s.wphase == .idle || s.wphase == .exited)

/-- The device's state after a reset (R540, R542): the parameters and the window extents stay, guest memory, the schedule and the
histories are not the device's. -/
def resetDevice (s : State) : State :=
  (((((((s.withRegs (resetRegs s.params s.regs.win)).withActiveRtaddr 0).withActiveIrta 0).withDiag .none).withPhase
    .idle).withWake false).withShutdown false).withStats zeroStats

/-- The reset step (R542). -/
def hostReset (s : State) : Out := if hostStepAllowed s then .next (resetDevice s) else .refused .hostStepBusy

/-- The device's list of implementation-defined register offsets (R545): IVA, IOTLB, FRCD. -/
def implOffsets : List Nat := [0xE50, 0xE58, 0xE70]

/-- The register file of two byte blobs (R545). -/
def blobRegs (w : Windows) (g0 g1 : List Byte) : RegFile :=
  ⟨w, Vector.ofFn fun i => g0.getD i.val 0, Vector.ofFn fun i => g1.getD i.val 0⟩

/-- VER, CAP and ECAP of a register file are the snapshot's (R43). -/
def capsMatch (p : Params) (r : RegFile) : Bool :=
  r.read32 Reg.ver.off == verValue p && r.read64 Reg.cap.off == capValue p && r.read64 Reg.ecap.off == ecapValue p

/-- Does an image fit the device? (R545; the blobs' own capability registers must be the snapshot's, assumption 12) -/
def imageFits (p : Params) (w : Windows) (img : RestoreImage) : Bool :=
  img.ver == verValue p && img.cap == capValue p && img.ecap == ecapValue p
    && img.g0.length == w.g0End && img.g1.length == w.g1End - w.g1First && img.offs == implOffsets
    && capsMatch p (blobRegs w img.g0 img.g1)

/-- The device's state after a restore of an image that fits (R545): no handler runs and the worker sleeps. DESIGN CHOICE
(assumption 26, unsafe): the blobs are stored as they are, so a byte of a stub, of a hole or of a reserved field that an
image holds nonzero reads back nonzero; R69 and 93 A3 say that such a byte reads 0, R545 that a group becomes its blob. -/
def restoreDevice (s : State) (img : RestoreImage) : State :=
  (((((s.withRegs (blobRegs s.regs.win img.g0 img.g1)).withActiveRtaddr img.rt).withActiveIrta img.irta).withDiag .none).withPhase
    .idle).withWake false

/-- The restore step (R545): a misfit is a hard failure, after which the device takes no further step. -/
def hostRestore (s : State) (img : RestoreImage) : Out :=
  if !hostStepAllowed s then .refused .hostStepBusy
  else if imageFits s.params s.regs.win img then .next (restoreDevice s img)
  else .fault .restoreFailed

/-- The shutdown step (R546). -/
def hostShutdown (s : State) : Out := .next (s.withShutdown true)

end Sys2Proof.Machine
end

