-- ==== Sys2Proof/Machine/Worker.lean ====
section
/-! DEFINITION. The invalidation-queue worker (44_invalidation_queue.md, R430 to R441): every step of R432 but
`W_DISPATCH`, which runs a descriptor's meaning and so stands in Step.lean. -/

namespace Sys2Proof.Machine

/-- The snapshot of the queue registers (R433). -/
def queueSnap (s : State) : QSnap where
  base := s.reg64 .iqa &&& hawMask s.params &&& ~~~0xFFF#64
  size := 4096 * 2 ^ (field (s.reg64 .iqa) 0 3).toNat
  wide := (s.reg64 .iqa).getLsbD 11
  ttm := rtTtm s.activeRtaddr
  head := queueOffset (s.reg64 .iqh)
  tail := queueOffset (s.reg64 .iqt)

/-- BatchChecks (R434, R435), in the order the rules give. -/
def batchCheck (q : QSnap) : Option IqError :=
  if q.ttm = 0b10 then some .ttmReserved
  else if q.size ≤ q.tail then some .tailInvalid
  else if q.wide && q.tail.testBit 4 then some .tailMisaligned
  else if q.size ≤ q.head then some .tailInvalid
  else none

/-- Check() (R433): what the worker does when it looks for work. -/
def checkQueue (s : State) : State :=
  if s.flag .qies = false ∨ s.flag .iqe = true then s.withPhase .idle
  else if (queueSnap s).head = (queueSnap s).tail then s.withPhase .idle
  else
    match batchCheck (queueSnap s) with
    | some e => stopBatch s e
    | none => s.withPhase (.fetching (queueSnap s))

/-- The read of a batch (R436): one read, or two when the ring wraps. -/
def fetchBatch (m : Memory) (o : List MemAnswer) (q : QSnap) : Option (List Byte) × List MemAnswer :=
  if q.head < q.tail then memRead m o (q.base + BitVec.ofNat 64 q.head) (q.tail - q.head)
  else
    match memRead m o (q.base + BitVec.ofNat 64 q.head) (q.size - q.head) with
    | (none, o1) => (none, o1)
    | (some b1, o1) =>
      if q.tail = 0 then (some b1, o1)
      else
        match memRead m o1 q.base q.tail with
        | (none, o2) => (none, o2)
        | (some b2, o2) => (some (b1 ++ b2), o2)

/-- The descriptor at a byte offset of a batch (R436). -/
def descAt (bs : List Byte) (k : Nat) : Desc := ⟨le64OfList (bs.drop k), le64OfList (bs.drop (k + 8))⟩

/-- The descriptor size in bytes (R210, R433). -/
def dscSize (q : QSnap) : Nat := if q.wide then 32 else 16

/-- The bytes of a batch split into descriptors (R436); with 256-bit descriptors bytes 16 to 31 are ignored. -/
def splitBatch (q : QSnap) (bs : List Byte) : List Desc :=
  (List.range (bs.length / dscSize q)).map fun k => descAt bs (k * dscSize q)

/-- `W_FETCH` (R436): without the lock; the bytes are kept for `W_ADVANCE`. -/
def workerFetch (s : State) (q : QSnap) : State :=
  let f := fetchBatch s.mem s.oracle q
  (s.withOracle f.2).withPhase (.fetched q f.1)

/-- `W_ADVANCE` (R437, R438): the head moves to the snapshot's tail, or a failed read is a queue error. -/
def workerAdvance (s : State) (q : QSnap) : Option (List Byte) → State
  | none => stopBatch s .fetchFailed
  | some bs => (s.setReg64 .iqh (BitVec.ofNat 64 q.tail)).withPhase (.dispatching q (splitBatch q bs) 0 .start)

/-- `W_SIGNAL` (R453): the completion status and its event, then the next descriptor. -/
def workerSignal (s : State) (q : QSnap) (descs : List Desc) (i : Nat) : State :=
  let s1 := if s.flag .iwc then s else raiseEvent (s.setFlag .iwc true) .invCompletion
  s1.withPhase (.dispatching q descs (i + 1) .start)

/-- `W_NEXT` (R441, R546): the batch is at its end. -/
def workerNext (s : State) : State := if s.shutdown then s.withPhase .exited else checkQueue s

/-- `W_EXIT` and `W_WAKE` (R432, R546): from IDLE; without a wake or a shutdown the worker sleeps. -/
def workerIdle (s : State) : State :=
  if s.shutdown then s.withPhase .exited
  else if s.wakePending then checkQueue (s.withWake false)
  else s

/-- What the worker does next: run a descriptor (`W_DISPATCH`, R440), or one of the other steps of R432, or sleep. -/
inductive WorkerMove where
  | dispatch (d : Desc)
  | other (s : State)
  deriving DecidableEq, Repr

/-- The worker's next step (R432). -/
def workerMove (s : State) : WorkerMove :=
  match s.wphase with
  | .idle => .other (workerIdle s)
  | .fetching q => .other (workerFetch s q)
  | .fetched q bs => .other (workerAdvance s q bs)
  | .dispatching q descs i .signal => .other (workerSignal s q descs i)
  | .dispatching _ descs i .start =>
    match descs[i]? with
    | some d => .dispatch d
    | none => .other (workerNext s)
  | .exited => .other s

end Sys2Proof.Machine
end

