-- ==== Sys2Proof/Machine/Step.lean ====
section
/-! DEFINITION. One step: the next entry of the schedule, or, with nothing scheduled, the worker's own next step. -/

namespace Sys2Proof.Machine

/-- A call whose bytes decode is that operation; bytes that do not are refused. -/
def onDecoded (src : Source) (bs : List Byte) (s : State) (k : Instr → State → Out) : Out :=
  match decode src bs with
  | .ok i => k i s
  | .error e => .refused (.undecodable e)

/-- The worker's next step (R432); dispatching a descriptor is the operation it decodes to (R440). -/
def workerStep (s : State) : Out :=
  match workerMove s with
  | .dispatch d => exec (decodeDesc d) s
  | .other t => .next t

/-- One scheduled step of an agent (R8). -/
def runEvent (e : Event) (s : State) : Out :=
  match e with
  | .call p bs => onDecoded (.call p) bs s exec
  | .oddAccess isWrite _ n => oddAccess isWrite n s
  | .begin p bs => onDecoded (.call p) bs s (fun i t => beginRequest t i)
  | .snapshot k => snapshotInFlight s k
  | .walk k => walkInFlight s k
  | .record k => recordInFlight s k
  | .worker => workerStep s
  | .guestStore a bs => .next (s.withMem (s.mem.store a bs))
  | .reset => hostReset s
  | .restore img => hostRestore s img
  | .shutdown => hostShutdown s

/-- One step of the machine. The block "executes nothing until an agent acts" (R541): with an empty schedule only the
worker, the block's own agent, moves, and a worker that sleeps leaves the state as it is. -/
def step (s : State) : Out :=
  match s.agenda with
  | [] => workerStep s
  | e :: rest => runEvent e (s.withAgenda rest)

/-- The queue snapshot of a batch of one descriptor at the start of a 4 KiB ring at address 0. -/
def tableSnap : QSnap := ⟨0, 4096, false, 0, 0, 16⟩

/-- The state whose next step runs the operation of an opcode-table word (assumption 10): a call is put first in the
schedule, a GCMD word is a 4-byte MMIO write of it to GCMD, and a descriptor is a fetched batch of its own whose dispatch
is the worker's next step. -/
def State.withFetchWord (s : State) (nbits w : Nat) : State :=
  match tableSpace nbits w with
  | .gcmd => s.withAgenda (.call .mmio (encode (.mmioW32 0x018 (BitVec.ofNat 32 w))) :: s.agenda)
  | .packet (.call p) => s.withAgenda (.call p (tablePacket (.call p) w) :: s.agenda)
  | .packet .ring =>
    (s.withPhase (.dispatching tableSnap [descAt (tablePacket .ring w) 0] 0 .start)).withAgenda (.worker :: s.agenda)

end Sys2Proof.Machine
end

