-- ==== Sys2Proof/WellFormed.lean ====
section
/-! DEFINITION. Which operations are well formed: a request meets the preconditions of its rule (R290, R330), an
interrupt request's format flag and a descriptor's type bits are those of its opcode-table row (R173, R191, R211). -/

namespace Sys2Proof

open Sys2Proof.Machine (translatePre bulkPre matchesRow)

/-- The well-formedness check of an operation. -/
def Instr.wellFormed : Instr → Bool
  | .mmioR32 _ => true
  | .mmioR64 _ => true
  | .mmioW32 _ _ => true
  | .mmioW64 _ _ => true
  | .gcmdTeSet => true
  | .gcmdTeClr => true
  | .gcmdQieSet => true
  | .gcmdQieClr => true
  | .gcmdIreSet => true
  | .gcmdIreClr => true
  | .gcmdCfiSet => true
  | .gcmdCfiClr => true
  | .gcmdSrtp => true
  | .gcmdSirtp => true
  | .gcmdSfl => true
  | .gcmdEafl => true
  | .gcmdWbf => true
  | .dmaTranslate _ addr len flags _ => translatePre addr len flags
  | .dmaBulk _ flags addrs => bulkPre flags addrs
  | .irqRemapCompat _ msiAddr _ => !msiAddr.getLsbD 4
  | .irqRemap _ msiAddr _ => msiAddr.getLsbD 4
  | .dscCcInv d => matchesRow d 0xE0F 0x001
  | .dscIotlbInv d => matchesRow d 0xE0F 0x002
  | .dscDevTlbInv d => matchesRow d 0xE0F 0x003
  | .dscIecInv d => matchesRow d 0xE0F 0x004
  | .dscPIotlbInv d => matchesRow d 0xE0F 0x006
  | .dscPcInv d => matchesRow d 0xE0F 0x007
  | .dscPDevTlbInv d => matchesRow d 0xE0F 0x008
  | .dscInvWait d => matchesRow d 0xE0F 0x005
  | .dscRsvd00 d => matchesRow d 0xE0F 0x000
  | .dscRsvd09Odd d => matchesRow d 0xE09 0x009
  | .dscRsvd0A0E d => matchesRow d 0xE0B 0x00A
  | .dscRsvd0C d => matchesRow d 0xE0F 0x00C
  | .dscRsvdT4 d => matchesRow d 0x200 0x200
  | .dscRsvdT5 d => matchesRow d 0x600 0x400
  | .dscRsvdT6 d => matchesRow d 0xE00 0x800

end Sys2Proof
end

