-- ==== Sys2Proof/Safety.lean ====
section
/-! DEFINITION. The terms that claims use: what an operation may change, the masked write bit by bit, an event raised, a
fault taken, the declarative page walk, and the invariants of the machine. Each is written from the rules it cites,
beside the functions of Machine/ and not through them where the rule's own words allow it. -/

namespace Sys2Proof.Machine

/-! ### The register space, bit by bit -/

/-- Bit `k` of the register space: bit `k % 8` of the byte at MMIO offset `k / 8` (R13, R30, R140). -/
def RegFile.spaceBit (r : RegFile) (k : Nat) : Bool := (r.byte (k / 8)).getLsbD (k % 8)

/-- The register file `r'` has the extents of `r`, and its bits are those of `f`. -/
def BitsAre (r r' : RegFile) (f : Nat → Bool) : Prop := r'.win = r.win ∧ ∀ k, r'.spaceBit k = f k

/-- Two register files of the same extents may differ only in the bits of the listed spans (first bit and number of
bits). -/
def OnlyBits (r r' : RegFile) (spans : List (Nat × Nat)) : Prop :=
  r'.win = r.win ∧ ∀ k, (∀ sp ∈ spans, k < sp.1 ∨ sp.1 + sp.2 ≤ k) → r'.spaceBit k = r.spaceBit k

/-- The place of a flag in the register space. -/
def Flag.pos (f : Flag) : Nat := 8 * f.off + f.bit

/-- A flag as a span of the register space. -/
def Flag.span (f : Flag) : Nat × Nat := (f.pos, 1)

/-- A register as a span of the register space. -/
def Reg.span (x : Reg) : Nat × Nat := (8 * x.off, 8 * x.size)

/-! ### MMIO accesses -/

/-- R131, for an access of 4 or 8 bytes: naturally aligned, and inside group 0 or inside group 1. -/
abbrev Accepts (w : Windows) (off n : Nat) : Prop :=
  off % n = 0 ∧ (off + n ≤ w.g0End ∨ (w.g1First ≤ off ∧ off + n ≤ w.g1End))

/-- An MMIO write: its offset, its size in bytes and its value. -/
def writeOf : Instr → Option (Nat × Nat × Word64)
  | .mmioW32 off v => some (off.toNat, 4, v.setWidth 64)
  | .mmioW64 off v => some (off.toNat, 8, v)
  | _ => none

/-- Bit `k` of the register space after the masked write of R242: read-only bits kept, writable bits merged, RW1C bits
written 1 cleared; a bit outside the access keeps its value. -/
def maskedBit (p : Params) (r : RegFile) (off n : Nat) (v : Word64) (k : Nat) : Bool :=
  if 8 * off ≤ k ∧ k < 8 * (off + n) then
    let rw := (rwByte p (k / 8)).getLsbD (k % 8)
    let rw1c := (rw1cByte (k / 8)).getLsbD (k % 8)
    let w := v.getLsbD (k - 8 * off)
    (r.spaceBit k && !rw || w && rw) && !(w && rw1c)
  else r.spaceBit k

/-- The registers with a write handler (R251). -/
def handlerRegs : List Reg := [.gcmd, .ccmd, .fsts, .fectl, .iqt, .ics, .iectl, .iotlb, .frcdHi]

/-- The masks of the register map of R32: offset, size in bytes, RW mask, RW1C mask of every register with a nonzero
mask. -/
def maskTable (p : Params) : List (Nat × Nat × Word64 × Word64) :=
  [(0x020, 8, hawMask p ||| 0xC00, 0), (0x028, 8, 0xE0000003FFFFFFFF, 0), (0x034, 4, 0, 0x7D),
    (0x038, 4, 0x80000000, 0), (0x03C, 4, if p.eim then 0xFFFFFFFF else 0xFFFF, 0), (0x040, 4, 0xFFFFFFFC, 0),
    (0x044, 4, if p.eim then 0xFFFFFFFF else 0, 0), (0x088, 8, 0x7FFF0, 0), (0x090, 8, hawMask p ||| 0x7, 0),
    (0x09C, 4, 0, 0x1), (0x0A0, 4, 0x80000000, 0), (0x0A4, 4, if p.eim then 0xFFFFFFFF else 0xFFFF, 0),
    (0x0A8, 4, 0xFFFFFFFC, 0), (0x0AC, 4, if p.eim then 0xFFFFFFFF else 0, 0),
    (0x0B8, 8, hawMask p ||| (if p.eim then 0x800 else 0) ||| 0xF, 0), (0xE50, 8, 0xFFFFFFFFFFFFF07F, 0),
    (0xE58, 8, 0xB003FFFF00000000, 0), (0xE78, 8, 0, 0x8000000000000000)]

/-! ### Opcode-table rows -/

/-- The command rows of spec/opcode_table.json. -/
def gcmdRows : List Instr :=
  [.gcmdTeSet, .gcmdTeClr, .gcmdQieSet, .gcmdQieClr, .gcmdIreSet, .gcmdIreClr, .gcmdCfiSet, .gcmdCfiClr, .gcmdSrtp,
    .gcmdSirtp, .gcmdSfl, .gcmdEafl, .gcmdWbf]

/-- The rows of the acknowledged descriptor types (R447), each with its statistics counter. -/
def ackRows (d : Desc) : List (Instr × AckType) :=
  [(.dscCcInv d, .ccInv), (.dscIotlbInv d, .iotlbInv), (.dscDevTlbInv d, .devTlbInv), (.dscIecInv d, .iecInv),
    (.dscPIotlbInv d, .pIotlbInv), (.dscPcInv d, .pcInv), (.dscPDevTlbInv d, .pDevTlbInv)]

/-- The rows of the reserved descriptor types (R446). -/
def rsvdRows (d : Desc) : List Instr :=
  [.dscRsvd00 d, .dscRsvd09Odd d, .dscRsvd0A0E d, .dscRsvd0C d, .dscRsvdT4 d, .dscRsvdT5 d, .dscRsvdT6 d]

/-- Every descriptor row. -/
def dscRows (d : Desc) : List Instr := (ackRows d).map (·.1) ++ [.dscInvWait d] ++ rsvdRows d

/-- The counter of an acknowledged descriptor type (R70). -/
def Stats.get (c : Stats) : AckType → Nat
  | .ccInv => c.ccInv
  | .iotlbInv => c.iotlbInv
  | .devTlbInv => c.devTlbInv
  | .iecInv => c.iecInv
  | .pIotlbInv => c.pIotlbInv
  | .pcInv => c.pcInv
  | .pDevTlbInv => c.pDevTlbInv

/-! ### Events and faults -/

/-- `a` and `d` are the address and data of an event's MSI (R493), bit by bit: address bits 1:0 are 0, the upper address
and the upper half of the data count only with `ECAP.EIM`, and data bits 15:14 (trigger mode and level) are 0. -/
def EventMsi (s : State) (k : EventKind) (a : Word64) (d : Word32) : Prop :=
  (∀ i < 64, a.getLsbD i = if i < 2 then false else if i < 32 then (s.reg32 k.addr).getLsbD i
    else (s.reg64 .ecap).getLsbD 4 && (s.reg32 k.uaddr).getLsbD (i - 32)) ∧
  (∀ i < 32, d.getLsbD i = if i < 14 then (s.reg32 k.data).getLsbD i else if i < 16 then false
    else (s.reg64 .ecap).getLsbD 4 && (s.reg32 k.data).getLsbD i)

/-- `t` has the event `k` raised over `s` (R492): unmasked, its MSI is sent and the pending bit is 0; masked, the pending
bit is 1 and nothing is sent. -/
def EventRaised (k : EventKind) (s t : State) : Prop :=
  if s.flag k.im = true then t.flag k.ip = true ∧ t.outputs = s.outputs
  else ∃ a d, EventMsi s k a d ∧ t.flag k.ip = false ∧ t.outputs = s.outputs ++ [.sendMsi a d]

/-- `t` is `s` with a primary fault taken (R485): in a free slot the record is stored with F = 1 and PPF = 1, FRI is 0 and
the fault event is raised; in an occupied slot only PFO is set. -/
def FaultTaken (hi lo : Word64) (s t : State) : Prop :=
  t = { s with regs := t.regs, outputs := t.outputs } ∧
  if s.flag .ppf = true then
    t.flag .pfo = true ∧ t.outputs = s.outputs ∧ OnlyBits s.regs t.regs [Flag.pfo.span]
  else
    t.reg64 .frcdLo = lo ∧ (∀ i < 64, (t.reg64 .frcdHi).getLsbD i = (hi.getLsbD i || i == 63)) ∧
    t.flag .ppf = true ∧ field (t.reg32 .fsts) 8 8 = 0 ∧ EventRaised .fault s t ∧
    OnlyBits s.regs t.regs
      [Reg.frcdLo.span, Reg.frcdHi.span, Flag.ppf.span, (8 * 0x034 + 8, 8), Flag.feIp.span]

/-- The IQEI code of a queue error (the table of R199). -/
def IqError.code : IqError → Nat
  | .tailInvalid => 1
  | .fetchFailed => 2
  | .waitStatusWriteFailed => 2
  | .dscTypeInvalid => 3
  | .waitRsvd => 4
  | .tailMisaligned => 6
  | .ttmReserved => 7

/-- `t` is `s` with a queue error taken (R495): `diag`, IQE and IQERCD say so and the fault event is raised; FRCD and PPF
are not touched. -/
def QueueErrorTaken (e : IqError) (s t : State) : Prop :=
  t = { s with regs := t.regs, diag := .iq e, outputs := t.outputs } ∧
  t.flag .iqe = true ∧ (t.reg64 .iqercd).toNat = e.code ∧ EventRaised .fault s t ∧
  OnlyBits s.regs t.regs [Flag.iqe.span, Reg.iqercd.span, Flag.feIp.span]

/-- `t` is `s` with a queue error taken and the batch stopped: the worker is idle (R435, R437, R456). -/
def BatchStopped (e : IqError) (s t : State) : Prop := ∃ u, QueueErrorTaken e s u ∧ t = { u with wphase := .idle }

/-! ### Guest-memory reads, declaratively -/

/-- The memory system answers the next call with the bytes that memory holds; `o'` are the answers left. -/
abbrev Honest (o o' : List MemAnswer) : Prop := (o = [] ∧ o' = []) ∨ o = .honest :: o'

/-- An 8-byte read at `a` succeeds with the value `v`: memory's, or the one of the bytes that the memory system supplies
(R15, R144). -/
def Reads64 (m : Memory) (o : List MemAnswer) (a v : Word64) (o' : List MemAnswer) : Prop :=
  (Honest o o' ∧ v = m.word64At a) ∨ ∃ bs, o = .bytes bs :: o' ∧ v = le64OfList bs

/-- A 16-byte read at `a` succeeds with the quadwords `q0` and `q1` (R15, R144). -/
def Reads128 (m : Memory) (o : List MemAnswer) (a q0 q1 : Word64) (o' : List MemAnswer) : Prop :=
  (Honest o o' ∧ q0 = m.word64At a ∧ q1 = m.word64At (a + 8)) ∨
    ∃ bs, o = .bytes bs :: o' ∧ q0 = le64OfList bs ∧ q1 = le64OfList (bs.drop 8)

/-- The next call fails (R143). -/
abbrev Fails (o o' : List MemAnswer) : Prop := o = .fail :: o'

/-! ### Address translation, declaratively -/

/-- Where the root entry of a source ID lies (R300). -/
abbrev rootEntryAddr (p : Params) (rt : Word64) (sid : BitVec 16) : Word64 :=
  (rt &&& hawMask p) + BitVec.ofNat 64 (16 * (sid.toNat / 256))

/-- Where the context entry of a source ID lies under a root entry (R302). -/
abbrev ctxEntryAddr (p : Params) (r0 : Word64) (sid : BitVec 16) : Word64 :=
  (r0 &&& hawMask p) + BitVec.ofNat 64 (16 * (sid.toNat % 256))

/-- Where the second-level entry of an input address lies in the table at level `L` (R188, R311). -/
abbrev slEntryAddr (table addr : Word64) (level : Nat) : Word64 :=
  table + BitVec.ofNat 64 (8 * (addr.toNat / 2 ^ (12 + 9 * level) % 512))

/-- A root entry has no reserved bit set (R183). -/
abbrev RootClean (p : Params) (r0 r1 : Word64) : Prop := r0 &&& ~~~(1 ||| hawMask p) = 0 ∧ r1 = 0

/-- A context entry has no reserved bit set (R184). -/
abbrev CtxClean (p : Params) (q0 q1 : Word64) : Prop := q0 &&& ~~~(0xF ||| hawMask p) = 0 ∧ q1 &&& ~~~(ctxQw1Valid p) = 0

/-- The permissions left after an entry: those common to it and the entries before it (R187, R310). -/
abbrev permsAfter (eff : Perm) (e : Word64) : Perm := ⟨eff.read && e.getLsbD 0, eff.write && e.getLsbD 1⟩

/-- An entry at level `L` is a leaf (R188). -/
abbrev LeafEntry (level : Nat) (e : Word64) : Prop := level = 0 ∨ ((level = 1 ∨ level = 2) ∧ e.getLsbD 7 = true)

/-- The page `[base, base + size)` does not meet the reserved interrupt window (R315). -/
abbrev OutsideWindow (p : Params) (base size : Nat) : Prop :=
  p.irqWindowLast.toNat < base ∨ base + size ≤ p.irqWindowFirst.toNat

/-- The base of the page that a leaf `e` at level `L` maps (R190). -/
abbrev leafBase (e : Word64) (level : Nat) : Nat :=
  (e &&& 0x000FFFFFFFFFF000).toNat / 2 ^ (12 + 9 * level) * 2 ^ (12 + 9 * level)

/-- The checks of R312 and R313 pass for an entry `e` at level `L` when the permissions left are `eff`. -/
def EntryPasses (p : Params) (cap : Word64) (flags eff : Perm) (e : Word64) (level : Nat) : Prop :=
  (flags.write = true → eff.write = true) ∧ (flags.read = true → eff.read = true) ∧ e &&& slRsvdMask p cap e level = 0

/-- The fault that the checks of R312 and R313 raise for an entry, in their order: write, read, reserved bits. -/
def EntryFaultsWith (p : Params) (cap : Word64) (flags eff : Perm) (e : Word64) (level : Nat) (f : AtFault) : Prop :=
  if flags.write = true ∧ eff.write = false then f = .slWriteDenied
  else if flags.read = true ∧ eff.read = false then f = .slReadDenied
  else e &&& slRsvdMask p cap e level ≠ 0 ∧ f = .slRsvd

/-- `SlPath … L table eff o L' e eff' o'`: from the table at level `L` with the permissions `eff` the page tables, as the
memory system answers, lead to the leaf entry `e` at level `L'`, every entry on the way passing its checks; `eff'` are the
permissions common to the entries (R188, R310, R312). -/
inductive SlPath (p : Params) (m : Memory) (cap : Word64) (flags : Perm) (addr : Word64) :
    Nat → Word64 → Perm → List MemAnswer → Nat → Word64 → Perm → List MemAnswer → Prop where
  /-- The entry at this level is a leaf. -/
  | leaf (level : Nat) (table e : Word64) (eff eff' : Perm) (o o' : List MemAnswer)
      (read : Reads64 m o (slEntryAddr table addr level) e o') (perms : eff' = permsAfter eff e)
      (ok : EntryPasses p cap flags eff' e level) (isLeaf : LeafEntry level e) :
      SlPath p m cap flags addr level table eff o level e eff' o'
  /-- The entry at this level points to the next table. -/
  | down (level : Nat) (table e : Word64) (eff : Perm) (leafLevel : Nat) (leafEntry : Word64) (leafPerm : Perm)
      (o o1 o' : List MemAnswer) (read : Reads64 m o (slEntryAddr table addr (level + 1)) e o1)
      (ok : EntryPasses p cap flags (permsAfter eff e) e (level + 1)) (notLeaf : ¬ LeafEntry (level + 1) e)
      (next : SlPath p m cap flags addr level (e &&& 0x000FFFFFFFFFF000 &&& hawMask p) (permsAfter eff e) o1
        leafLevel leafEntry leafPerm o') :
      SlPath p m cap flags addr (level + 1) table eff o leafLevel leafEntry leafPerm o'

/-- `SlFaults … L table eff o f o'`: the walk from the table at level `L` raises the fault `f` (R310 to R315). -/
inductive SlFaults (p : Params) (m : Memory) (cap : Word64) (flags : Perm) (addr : Word64) :
    Nat → Word64 → Perm → List MemAnswer → AtFault → List MemAnswer → Prop where
  /-- The read of the entry at this level fails (R311). -/
  | unread (level : Nat) (table : Word64) (eff : Perm) (o o' : List MemAnswer) (fails : Fails o o') :
      SlFaults p m cap flags addr level table eff o .slReadFailed o'
  /-- The entry at this level fails a check (R312, R313). -/
  | check (level : Nat) (table e : Word64) (eff : Perm) (o o' : List MemAnswer) (f : AtFault)
      (read : Reads64 m o (slEntryAddr table addr level) e o')
      (fault : EntryFaultsWith p cap flags (permsAfter eff e) e level f) :
      SlFaults p m cap flags addr level table eff o f o'
  /-- The entry at this level is a leaf whose page meets the reserved interrupt window (R315). -/
  | window (level : Nat) (table e : Word64) (eff : Perm) (o o' : List MemAnswer)
      (read : Reads64 m o (slEntryAddr table addr level) e o')
      (ok : EntryPasses p cap flags (permsAfter eff e) e level) (isLeaf : LeafEntry level e)
      (inside : ¬ OutsideWindow p (leafBase e level) (2 ^ (12 + 9 * level))) :
      SlFaults p m cap flags addr level table eff o .outInWindow o'
  /-- The entry at this level points to the next table, and the fault comes from there. -/
  | down (level : Nat) (table e : Word64) (eff : Perm) (o o1 o' : List MemAnswer) (f : AtFault)
      (read : Reads64 m o (slEntryAddr table addr (level + 1)) e o1)
      (ok : EntryPasses p cap flags (permsAfter eff e) e (level + 1)) (notLeaf : ¬ LeafEntry (level + 1) e)
      (next : SlFaults p m cap flags addr level (e &&& 0x000FFFFFFFFFF000 &&& hawMask p) (permsAfter eff e) o1 f o') :
      SlFaults p m cap flags addr (level + 1) table eff o f o'

/-- The context entry of a source ID under an active root pointer: `q0` and `q1` are its quadwords, and it and the root
entry are present and have no reserved bit set (R300 to R303). -/
def ContextOf (p : Params) (m : Memory) (rt : Word64) (sid : BitVec 16) (o : List MemAnswer) (q0 q1 : Word64)
    (o' : List MemAnswer) : Prop :=
  ∃ r0 r1 o1, Reads128 m o (rootEntryAddr p rt sid) r0 r1 o1 ∧ r0.getLsbD 0 = true ∧ RootClean p r0 r1 ∧
    Reads128 m o1 (ctxEntryAddr p r0 sid) q0 q1 o' ∧ q0.getLsbD 0 = true ∧ CtxClean p q0 q1

/-- The address width of a context entry is valid: 1, 2 or 3, and `CAP.SAGAW` has its bit (R186, R304). -/
abbrev WidthValid (cap q1 : Word64) : Prop :=
  (field q1 0 3 = 1 ∨ field q1 0 3 = 2 ∨ field q1 0 3 = 3) ∧ cap.getLsbD (8 + (field q1 0 3).toNat) = true

/-- An input address is inside the implementation's and the context entry's width (R308). -/
abbrev InsideWidth (p : Params) (q1 addr : Word64) : Prop :=
  addr.toNat < 2 ^ p.mgaw ∧ addr.toNat < 2 ^ (12 + 9 * ((field q1 0 3).toNat + 2))

/-- What the tables say about one page of a request, as the memory system answers (R294, R300 to R315): the lookup of the
input address `addr` is the hit `h`. -/
def PageMapped (p : Params) (m : Memory) (sn : Snap) (sid : BitVec 16) (flags : Perm) (atype : AddrType) (addr : Word64)
    (o : List MemAnswer) (h : PageHit) (o' : List MemAnswer) : Prop :=
  ∃ q0 q1 o1, ContextOf p m sn.rt sid o q0 q1 o1 ∧ WidthValid sn.cap q1 ∧
    h.did.toNat = q1.toNat / 256 % 2 ^ didWidth p ∧
    ((field q0 2 2 = 2 ∧ sn.ecap.getLsbD 6 = true ∧ o' = o1 ∧ h.isPt = true ∧ h.out = addr ∧ h.psize = 0 ∧
        h.perm = ⟨true, true⟩) ∨
      (field q0 2 2 = 0 ∧ atype = .untranslated ∧ h.isPt = false ∧ InsideWidth p q1 addr ∧
        ∃ level e, SlPath p m sn.cap flags addr ((field q1 0 3).toNat + 1) (q0 &&& hawMask p) ⟨true, true⟩ o1
            level e h.perm o' ∧
          h.psize = 2 ^ (12 + 9 * level) ∧ h.out.toNat = leafBase e level + addr.toNat % h.psize ∧
          OutsideWindow p (leafBase e level) h.psize))

/-- The fault that a context entry which has been read raises, in the order of R303 to R315. -/
def CtxFaults (p : Params) (m : Memory) (sn : Snap) (flags : Perm) (atype : AddrType) (addr q0 q1 : Word64)
    (o : List MemAnswer) (f : AtFault) (o' : List MemAnswer) : Prop :=
  if q0.getLsbD 0 = false then f = .ctxNotPresent ∧ o' = o
  else if ¬ CtxClean p q0 q1 then f = .ctxRsvd ∧ o' = o
  else if field q0 2 2 = 0b01 ∨ field q0 2 2 = 0b11 then f = .ctxTtInvalid ∧ o' = o
  else if field q0 2 2 = 0b10 then ¬ (sn.ecap.getLsbD 6 = true ∧ WidthValid sn.cap q1) ∧ f = .ctxTtInvalid ∧ o' = o
  else if atype ≠ .untranslated then f = .ttBlocked ∧ o' = o
  else if ¬ WidthValid sn.cap q1 then f = .ctxAwInvalid ∧ o' = o
  else if ¬ InsideWidth p q1 addr then f = .addrBeyondWidth ∧ o' = o
  else SlFaults p m sn.cap flags addr ((field q1 0 3).toNat + 1) (q0 &&& hawMask p) ⟨true, true⟩ o f o'

/-- What the tables say about one page of a request that faults (R300 to R315): the lookup raises `f`, with the FPD flag
captured from the context entry, which is false until that entry has been read (R301, R302). -/
inductive PageFaults (p : Params) (m : Memory) (sn : Snap) (sid : BitVec 16) (flags : Perm) (atype : AddrType)
    (addr : Word64) : List MemAnswer → AtFault → Bool → List MemAnswer → Prop where
  /-- The read of the root entry fails (R300). -/
  | rootUnread (o o' : List MemAnswer) (fails : Fails o o') :
      PageFaults p m sn sid flags atype addr o .rootReadFailed false o'
  /-- The root entry fails a check: presence first, then reserved bits (R301). -/
  | root (o o' : List MemAnswer) (r0 r1 : Word64) (f : AtFault)
      (read : Reads128 m o (rootEntryAddr p sn.rt sid) r0 r1 o')
      (fault : if r0.getLsbD 0 = false then f = .rootNotPresent else ¬ RootClean p r0 r1 ∧ f = .rootRsvd) :
      PageFaults p m sn sid flags atype addr o f false o'
  /-- The read of the context entry fails (R302). -/
  | ctxUnread (o o1 o' : List MemAnswer) (r0 r1 : Word64) (read : Reads128 m o (rootEntryAddr p sn.rt sid) r0 r1 o1)
      (present : r0.getLsbD 0 = true) (clean : RootClean p r0 r1) (fails : Fails o1 o') :
      PageFaults p m sn sid flags atype addr o .ctxReadFailed false o'
  /-- The context entry, or the walk that starts from it, raises the fault (R303 to R315). -/
  | ctx (o o1 o2 o' : List MemAnswer) (r0 r1 q0 q1 : Word64) (f : AtFault)
      (readRoot : Reads128 m o (rootEntryAddr p sn.rt sid) r0 r1 o1) (present : r0.getLsbD 0 = true)
      (clean : RootClean p r0 r1) (readCtx : Reads128 m o1 (ctxEntryAddr p r0 sid) q0 q1 o2)
      (fault : CtxFaults p m sn flags atype addr q0 q1 o2 f o') :
      PageFaults p m sn sid flags atype addr o f (q0.getLsbD 1) o'

/-- `PagesTo … d perm o d' perm' o'`: from the first `d` bytes of a range, translated to `base` with the permissions
`perm`, further mapped and contiguous pages lead to its first `d'` bytes with the permissions `perm'` (R320). -/
inductive PagesTo (p : Params) (m : Memory) (sn : Snap) (sid : BitVec 16) (flags : Perm) (atype : AddrType)
    (addr base : Word64) (len : Nat) : Nat → Perm → List MemAnswer → Nat → Perm → List MemAnswer → Prop where
  /-- No further page. -/
  | stay (d : Nat) (perm : Perm) (o : List MemAnswer) : PagesTo p m sn sid flags atype addr base len d perm o d perm o
  /-- One more contiguous page. -/
  | page (d : Nat) (perm : Perm) (o : List MemAnswer) (h : PageHit) (o1 : List MemAnswer) (d' : Nat) (perm' : Perm)
      (o' : List MemAnswer) (more : d < len)
      (mapped : PageMapped p m sn sid flags atype (addr + BitVec.ofNat 64 d) o h o1) (paged : h.isPt = false)
      (contiguous : h.out = base + BitVec.ofNat 64 d)
      (rest : PagesTo p m sn sid flags atype addr base len (d + min (len - d) h.psize)
        ⟨perm.read && h.perm.read, perm.write && h.perm.write⟩ o1 d' perm' o') :
      PagesTo p m sn sid flags atype addr base len d perm o d' perm' o'

/-- The addresses of a bulk call are mapped one after another, to the outputs `outs` (R330). -/
inductive BulkMapped (p : Params) (m : Memory) (sn : Snap) (sid : BitVec 16) (flags : Perm) :
    List Word64 → List MemAnswer → List Word64 → List MemAnswer → Prop where
  /-- No address. -/
  | nil (o : List MemAnswer) : BulkMapped p m sn sid flags [] o [] o
  /-- One more address. -/
  | cons (a : Word64) (rest : List Word64) (o : List MemAnswer) (h : PageHit) (o1 : List MemAnswer) (outs : List Word64)
      (o' : List MemAnswer) (mapped : PageMapped p m sn sid flags .untranslated a o h o1)
      (next : BulkMapped p m sn sid flags rest o1 outs o') :
      BulkMapped p m sn sid flags (a :: rest) o (h.out :: outs) o'

/-! ### Requests as steps -/

/-- `Undisturbed k s t`: the steps of the `k`-th request in flight, whose walk is not taken in `s`, one after another and with
no other step between, lead to `t`, where it is answered (R156). A bulk call goes through the steps of each element, and may
take a new snapshot for each after the first. -/
inductive Undisturbed (k : Nat) : State → State → Prop where
  /-- A new snapshot for the next element. -/
  | snapshot (s s1 t : State) (taken : snapshotInFlight s k = .next s1) (rest : Undisturbed k s1 t) : Undisturbed k s t
  /-- Walk and record of an element that is not the last one. -/
  | element (s s1 s2 t : State) (walk : walkInFlight s k = .next s1) (record : recordInFlight s1 k = .next s2)
      (goesOn : s2.inflight.length = s1.inflight.length) (rest : Undisturbed k s2 t) : Undisturbed k s t
  /-- Walk and record at the end. -/
  | last (s s1 t : State) (walk : walkInFlight s k = .next s1) (record : recordInFlight s1 k = .next t)
      (ends : t.inflight.length < s1.inflight.length) : Undisturbed k s t

/-- The request `x` is a bulk call between two elements: its snapshot step is enabled (R156). -/
def BetweenElements (x : InFlight) : Prop :=
  (∃ sid flags addrs, x.request = .bulk sid flags addrs) ∧ x.outs ≠ [] ∧ x.walked = none

/-! ### Interrupt remapping, declaratively -/

/-- The source-ID policies of R370 accept a requester: no validation; the masked comparison, in which the qualifier 0
compares all bits, 1 ignores bit 2, 2 ignores bits 2:1 and 3 ignores bits 2:0 (R197); or the bus range. -/
abbrev SourceAccepted (sid : BitVec 16) (q1 : Word64) : Prop :=
  field q1 18 2 = 0 ∨
  (field q1 18 2 = 1 ∧ sid.toNat / 8 = q1.toNat / 8 % 2 ^ 13 ∧
    (field q1 16 2 = 0 → sid.getLsbD 2 = q1.getLsbD 2) ∧
    (field q1 16 2 = 0 ∨ field q1 16 2 = 1 → sid.getLsbD 1 = q1.getLsbD 1) ∧
    (field q1 16 2 ≠ 3 → sid.getLsbD 0 = q1.getLsbD 0)) ∨
  (field q1 18 2 = 2 ∧ q1.toNat / 256 % 256 ≤ sid.toNat / 256 ∧ sid.toNat / 256 ≤ q1.toNat % 256)

/-- An IRTE has no reserved bit set (R195, R196). -/
abbrev IrteClean (eime : Bool) (q0 q1 : Word64) : Prop :=
  field q0 12 3 = 0 ∧ field q0 24 8 = 0 ∧ (eime = false → field q0 32 8 = 0 ∧ field q0 48 16 = 0) ∧ field q1 20 44 = 0

/-! ### The invariants -/

/-- How many bytes a batch covers (R436): from the head to the tail, through the end of the ring when it wraps. -/
def pendingBytes (q : QSnap) : Nat := if q.head < q.tail then q.tail - q.head else q.size - q.head + q.tail

/-- A queue snapshot that passed the batch checks (R433 to R435): offsets inside the ring and aligned, the ring at most
2^19 bytes (R570). -/
structure SnapOk (q : QSnap) : Prop where
  headInside : q.head < q.size
  tailInside : q.tail < q.size
  nonEmpty : q.head ≠ q.tail
  headAligned : q.head % 16 = 0
  tailAligned : q.tail % 16 = 0
  wideAligned : q.wide = true → q.tail % 32 = 0
  ringPages : q.size % 4096 = 0
  ringBound : q.size ≤ 2 ^ 19
  mode : q.ttm ≠ 0b10

/-- The worker phase fits its snapshot (R432, R436): the bytes kept are the batch's, the descriptors are as many as the
bytes hold, and the index stays inside. -/
def PhaseOk : WPhase → Prop
  | .idle => True
  | .exited => True
  | .fetching q => SnapOk q
  | .fetched q bs => SnapOk q ∧ ∀ b, bs = some b → b.length = pendingBytes q
  | .dispatching q descs i stage =>
    SnapOk q ∧ descs.length = pendingBytes q / (if q.wide then 32 else 16) ∧ i ≤ descs.length ∧
      (stage = .signal → i < descs.length)

/-- The invariant of the machine: the parameters are in range (R11), VER, CAP and ECAP hold the capability snapshot
(R43), memory is canonical, and the worker phase is coherent. -/
structure Inv (s : State) : Prop where
  params : paramsOk s.params = true
  caps : s.regs.read32 0x000 = verValue s.params ∧ s.regs.read64 0x008 = capValue s.params ∧
    s.regs.read64 0x010 = ecapValue s.params
  mem : s.mem.wf
  phase : PhaseOk s.wphase

/-- The fault slot is occupied exactly when its F bit is set (D20: "Keeps PPF = FRCD.F with one record"). -/
def SlotInv (s : State) : Prop := s.flag .ppf = s.flag .frcdF

/-- It is the worker's turn: nothing is scheduled, or the worker's step is. -/
def WorkerTurn (s : State) : Prop := s.agenda.head? = none ∨ s.agenda.head? = some .worker

end Sys2Proof.Machine
end

