-- ==== Sys2Proof/Certificates/Slice0/Obligations.lean ====
section
/-! DEFINITION. The statements for the provers, in the order of OBLIGATIONS.json: encoding, the step, the MMIO operations,
the global commands, DMA, interrupts, faults and events, the invalidation queue, the host's steps, the invariants. -/

open Sys2Proof Sys2Proof.Machine

/-! ### Encoding -/

/-- Decoding the bytes of a well-formed operation gives it back (R170, R173, R210); a GCMD row has no bytes of its own. The
packing of the DMA calls is the model's choice (assumption 8). -/
def Obligations.DecodeEncode : Prop :=
  ∀ (i : Instr) (src : Source), i.wellFormed = true → sourceOf i = some src → decode src (encode i) = .ok i

/-- Whatever bytes the decoder accepts are the encoding of what it answers, so no two byte strings decode alike. The packing
of the DMA calls is the model's choice (assumption 8). -/
def Obligations.EncodeDecode : Prop :=
  ∀ (src : Source) (bs : List Byte) (i : Instr), decode src bs = .ok i → sourceOf i = some src ∧ encode i = bs

/-- Every descriptor decodes to one of the fifteen descriptor rows, and to that one whose match and mask words its first
quadword fits (R173, R211): no two rows overlap and none is missing. -/
def Obligations.DescriptorRows : Prop :=
  ∀ d : Desc, decodeDesc d ∈ dscRows d ∧
    ∀ i ∈ dscRows d, (d.qw0.toNat &&& (tableRow i).2 = (tableRow i).1 ↔ decodeDesc d = i)

/-- A GCMD word asks for a command row exactly when the row's bit has the row's value (R172, R173, R220). -/
def Obligations.GcmdBits : Prop :=
  ∀ (w : Word32) (i : Instr), i ∈ gcmdRows →
    (i ∈ decodeGcmd w ↔ w.toNat &&& (tableRow i).2 = (tableRow i).1)

/-- Words written out from the spec's encodings decode to the operations they stand for: P1 step 1, X2, R173, I1v1,
Q1v2, Q1v4 and W of 95_test_vectors.md. The access word, the MSI's format flag and the descriptor's quadwords are the
spec's; that an MMIO write's data follow the access word, and that an interrupt call is its address, data and source ID in
this order, is the model's choice (assumption 8). -/
def Obligations.SpecWords : Prop :=
  decode (.call .mmio) [0x20, 0x30, 0x00, 0x00, 0x01, 0, 0, 0, 0, 0] = .ok (.mmioW64 0x020 0x10000) ∧
  decode (.call .mmio) [0x38, 0x00] = .ok (.mmioR32 0x038) ∧
  decode (.call .irq) [0xB0, 0x00, 0xE0, 0xFE, 0, 0, 0, 0, 0, 0, 0, 0, 0x00, 0x01] = .ok (.irqRemap 0x0100 0xFEE000B0 0) ∧
  decode .ring [0x02, 0, 0, 0, 0, 0, 0, 0, 0, 0, 0, 0, 0, 0, 0, 0] = .ok (.dscIotlbInv ⟨0x2, 0⟩) ∧
  decode .ring [0x05, 0x02, 0, 0, 0, 0, 0, 0, 0, 0, 0, 0, 0, 0, 0, 0] = .ok (.dscRsvdT4 ⟨0x205, 0⟩) ∧
  decode .ring [0x35, 0, 0, 0, 0xAB, 0, 0, 0, 0, 0, 0x05, 0, 0, 0, 0, 0] =
    .ok (.dscInvWait ⟨0x000000AB00000035, 0x50000⟩)

/-! ### The step -/

/-- A scheduled call whose bytes decode to a well-formed operation runs exactly that operation, the schedule one entry
shorter. That calls come from a schedule in the state is the model's choice (assumption 6). -/
def Obligations.StepRunsCall : Prop :=
  ∀ (s : State) (rest : List Event) (p : Port) (bs : List Byte) (i : Instr),
    s.agenda = .call p bs :: rest → decode (.call p) bs = .ok i → i.wellFormed = true →
      step s = exec i { s with agenda := rest }

/-- The worker's dispatch step runs the operation that its next descriptor's sixteen bytes decode to (R440), whether the
worker moves on its own or by the schedule. -/
def Obligations.StepRunsDescriptor : Prop :=
  ∀ (s : State) (q : QSnap) (ds : List Desc) (k : Nat) (d : Desc) (i : Instr),
    WorkerTurn s → s.wphase = .dispatching q ds k .start → ds[k]? = some d → decode .ring (encodeDesc d) = .ok i →
      i.wellFormed = true ∧ step s = exec i { s with agenda := s.agenda.tail }

/-- A GCMD write is its command rows, one after another (R401, R402). -/
def Obligations.GcmdWriteRunsRows : Prop :=
  ∀ (s : State) (w : Word32), exec (.mmioW32 0x018 w) s =
    (decodeGcmd w).foldl
      (fun o i => match o with
        | .next t => exec i t
        | .fault f => .fault f
        | .refused r => .refused r)
      (.next s)

/-! ### MMIO -/

/-- An MMIO read completes at every offset, returns the register bits at an accepted offset and all-ones at any other,
and changes no state but the list of replies (R135, R245, R246). -/
def Obligations.MmioReads : Prop :=
  ∀ (s : State) (off : BitVec 12),
    (∃ v, exec (.mmioR32 off) s = .next { s with replies := s.replies ++ [⟨some (.mmioR32 off), .read32 v⟩] } ∧
      (Accepts s.regs.win off.toNat 4 → ∀ j < 32, v.getLsbD j = s.regs.spaceBit (8 * off.toNat + j)) ∧
      (¬ Accepts s.regs.win off.toNat 4 → v = 0xFFFFFFFF)) ∧
    (∃ v, exec (.mmioR64 off) s = .next { s with replies := s.replies ++ [⟨some (.mmioR64 off), .read64 v⟩] } ∧
      (Accepts s.regs.win off.toNat 8 → ∀ j < 64, v.getLsbD j = s.regs.spaceBit (8 * off.toNat + j)) ∧
      (¬ Accepts s.regs.win off.toNat 8 → v = 0xFFFFFFFFFFFFFFFF))

/-- A rejected access (R131) changes no state: a write does nothing, a read returns all-ones of the access width; an
access of another size than 4 or 8 bytes is always rejected. -/
def Obligations.RejectedAccess : Prop :=
  ∀ (s : State) (off : BitVec 12),
    (¬ Accepts s.regs.win off.toNat 4 →
      (∀ v, exec (.mmioW32 off v) s = .next s) ∧
      exec (.mmioR32 off) s = .next { s with replies := s.replies ++ [⟨some (.mmioR32 off), .read32 0xFFFFFFFF⟩] }) ∧
    (¬ Accepts s.regs.win off.toNat 8 →
      (∀ v, exec (.mmioW64 off v) s = .next s) ∧
      exec (.mmioR64 off) s =
        .next { s with replies := s.replies ++ [⟨some (.mmioR64 off), .read64 0xFFFFFFFFFFFFFFFF⟩] }) ∧
    (∀ n, n ≠ 4 → n ≠ 8 →
      runEvent (.oddAccess true off n) s = .next s ∧
      runEvent (.oddAccess false off n) s = .next { s with replies := s.replies ++ [⟨none, .unused n⟩] })

/-- An accepted write that overlaps no register with a handler is the masked write of R242 and nothing else: every bit of
the register space is as R242 says, and nothing but the register file changes (R244, R248, R249, R251). -/
def Obligations.PlainWrite : Prop :=
  ∀ (s : State) (i : Instr) (off n : Nat) (v : Word64), writeOf i = some (off, n, v) → Accepts s.regs.win off n →
    (∀ x ∈ handlerRegs, off + n ≤ x.off ∨ x.off + x.size ≤ off) →
      ∃ t, exec i s = .next t ∧ t = { s with regs := t.regs } ∧
        BitsAre s.regs t.regs (maskedBit s.params s.regs off n v)

/-- The mask tables are those of the register map (R31, R32): each register's bytes have its masks, every other byte is
read-only, the two masks of a byte are disjoint, and HAW_MASK is the bits from 12 to P_HAW - 1 (R12). The masks of the
table entries, bit by bit: a domain ID has 4 + 2 * P_ND bits, CTX_QW1_VALID is the bits 6:0 and the domain ID's from bit 8
(R11, R12, R184), and the reserved bits of a second-level entry are those of R189. -/
def Obligations.MaskTable : Prop :=
  ∀ p : Params,
    (∀ row ∈ maskTable p, ∀ k < row.2.1,
      rwByte p (row.1 + k) = byteOf row.2.2.1 k ∧ rw1cByte (row.1 + k) = byteOf row.2.2.2 k) ∧
    (∀ o, (∀ row ∈ maskTable p, o < row.1 ∨ row.1 + row.2.1 ≤ o) → rwByte p o = 0 ∧ rw1cByte o = 0) ∧
    (∀ o, rwByte p o &&& rw1cByte o = 0) ∧
    (p.haw ≤ 64 → ∀ j < 64, (hawMask p).getLsbD j = (decide (12 ≤ j) && decide (j < p.haw))) ∧
    didWidth p = 4 + 2 * p.nd.toNat ∧
    (∀ j < 64, (ctxQw1Valid p).getLsbD j = decide (j < 7 ∨ (8 ≤ j ∧ j < 8 + (4 + 2 * p.nd.toNat)))) ∧
    (p.haw ≤ 64 → ∀ (cap e : Word64) (level : Nat), ∀ j < 64, (slRsvdMask p cap e level).getLsbD j = decide (
      (12 ≤ j ∧ p.haw ≤ j ∧ j < 52) ∨
      (j = 7 ∧ (level = 3 ∨ level = 4 ∨ (level = 2 ∧ e.getLsbD 7 = true ∧ cap.getLsbD 35 = false) ∨
        (level = 1 ∧ e.getLsbD 7 = true ∧ cap.getLsbD 34 = false))) ∨
      (12 ≤ j ∧ j < 30 ∧ level = 2 ∧ e.getLsbD 7 = true) ∨
      (12 ≤ j ∧ j < 21 ∧ level = 1 ∧ e.getLsbD 7 = true)))

/-- An 8-byte masked write equals the two 4-byte masked writes of its halves (R242). -/
def Obligations.WidthIndependence : Prop :=
  ∀ (p : Params) (r : RegFile) (off : Nat) (v : Word64), Accepts r.win off 8 →
    r.semWrite64 p off v = (r.semWrite32 p off (v.extractLsb' 0 32)).semWrite32 p (off + 4) (v.extractLsb' 32 32)

/-- A write that covers FSTS commits by the masks, and FECTL.IP becomes 0 if PFO, PPF and IQE are then all 0; the worker
is not woken and nothing is sent (R266). -/
def Obligations.FstsWrite : Prop :=
  ∀ (s : State) (i : Instr) (off n : Nat) (v : Word64), writeOf i = some (off, n, v) → Accepts s.regs.win off n →
    off < 0x038 → 0x034 < off + n →
      ∃ t, exec i s = .next t ∧ t = { s with regs := t.regs } ∧
        BitsAre s.regs t.regs fun k =>
          if k = Flag.feIp.pos ∧ maskedBit s.params s.regs off n v Flag.pfo.pos = false ∧
              maskedBit s.params s.regs off n v Flag.ppf.pos = false ∧ maskedBit s.params s.regs off n v Flag.iqe.pos = false
          then false else maskedBit s.params s.regs off n v k

/-- A write that covers FECTL (or IECTL) commits by the masks; if it takes IM from 1 to 0 while IP is 1, the event's MSI,
built from the registers as the write leaves them, is sent once and IP becomes 0; otherwise nothing is sent
(R260, R261). -/
def Obligations.EventControlWrite : Prop :=
  ∀ (s : State) (i : Instr) (off n : Nat) (v : Word64) (k : EventKind) (ctl : Reg), writeOf i = some (off, n, v) →
    Accepts s.regs.win off n → (k = .fault ∧ ctl = .fectl) ∨ (k = .invCompletion ∧ ctl = .iectl) →
    off < ctl.off + 4 → ctl.off < off + n →
      ∃ t, exec i s = .next t ∧ t = { s with regs := t.regs, outputs := t.outputs } ∧
        if s.flag k.im = true ∧ maskedBit s.params s.regs off n v k.im.pos = false ∧ s.flag k.ip = true then
          BitsAre s.regs t.regs (fun j => if j = k.ip.pos then false else maskedBit s.params s.regs off n v j) ∧
          ∃ a d, EventMsi t k a d ∧ t.outputs = s.outputs ++ [.sendMsi a d]
        else BitsAre s.regs t.regs (maskedBit s.params s.regs off n v) ∧ t.outputs = s.outputs

/-- A write that covers ICS commits by the masks, and clearing IWC clears IECTL.IP (R265). -/
def Obligations.IcsWrite : Prop :=
  ∀ (s : State) (i : Instr) (off n : Nat) (v : Word64), writeOf i = some (off, n, v) → Accepts s.regs.win off n →
    off < 0x0A0 → 0x09C < off + n →
      ∃ t, exec i s = .next t ∧ t = { s with regs := t.regs } ∧
        BitsAre s.regs t.regs fun k =>
          if k = Flag.ieIp.pos ∧ s.flag .iwc = true ∧ maskedBit s.params s.regs off n v Flag.iwc.pos = false
          then false else maskedBit s.params s.regs off n v k

/-- A write that covers FRCD_HI commits by the masks; clearing F clears PPF, and then FECTL.IP too if PFO and IQE are 0;
the other fields of the record keep their values (R264, R487). That R266's test of FECTL.IP is made only when the write
cleared F is read from R264's "then apply rule R266's test" as inside its "if" (DEDUCED, assumption 15). -/
def Obligations.FrcdWrite : Prop :=
  ∀ (s : State) (i : Instr) (off n : Nat) (v : Word64), writeOf i = some (off, n, v) → Accepts s.regs.win off n →
    off < 0xE80 → 0xE78 < off + n →
      ∃ t, exec i s = .next t ∧ t = { s with regs := t.regs } ∧
        BitsAre s.regs t.regs fun k =>
          if s.flag .frcdF = true ∧ maskedBit s.params s.regs off n v Flag.frcdF.pos = false ∧
              (k = Flag.ppf.pos ∨ (k = Flag.feIp.pos ∧ s.flag .pfo = false ∧ s.flag .iqe = false))
          then false else maskedBit s.params s.regs off n v k

/-- A write that covers CCMD (or IOTLB) commits by the masks; if that leaves ICC (or IVT) 1, the invalidation completes at
once: the bit reads 0 and the actual granularity is the requested one (R262, R263). -/
def Obligations.InvalidationRegisterWrite : Prop :=
  ∀ (s : State) (i : Instr) (off n : Nat) (v : Word64) (reg actual requested : Nat), writeOf i = some (off, n, v) →
    Accepts s.regs.win off n → (reg = 0x028 ∧ actual = 59 ∧ requested = 61) ∨ (reg = 0xE58 ∧ actual = 57 ∧ requested = 60) →
    off < reg + 8 → reg < off + n →
      ∃ t, exec i s = .next t ∧ t = { s with regs := t.regs } ∧
        BitsAre s.regs t.regs fun k =>
          if maskedBit s.params s.regs off n v (8 * reg + 63) = false then maskedBit s.params s.regs off n v k
          else if k = 8 * reg + 63 then false
          else if k = 8 * reg + actual then maskedBit s.params s.regs off n v (8 * reg + requested)
          else if k = 8 * reg + actual + 1 then maskedBit s.params s.regs off n v (8 * reg + requested + 1)
          else maskedBit s.params s.regs off n v k

/-- A write that covers IQT commits by the masks and wakes the worker if queued invalidation is enabled and no queue
error is pending (R431). -/
def Obligations.IqtWrite : Prop :=
  ∀ (s : State) (i : Instr) (off n : Nat) (v : Word64), writeOf i = some (off, n, v) → Accepts s.regs.win off n →
    off < 0x090 → 0x088 < off + n →
      ∃ t, exec i s = .next t ∧
        t = { s with regs := t.regs, wakePending := s.wakePending || (s.flag .qies && !s.flag .iqe) } ∧
        BitsAre s.regs t.regs (maskedBit s.params s.regs off n v)

/-! ### Global commands -/

/-- A write that covers GCMD sets each level feature to the written bit, performs SRTP and SIRTP if asked to, and ignores
every other bit (R401, R403): the status bits, the two pointers, the queue head and the wake are as the rule says and
nothing else changes. -/
def Obligations.GcmdWrite : Prop :=
  ∀ (s : State) (i : Instr) (n : Nat) (v : Word64), writeOf i = some (0x018, n, v) →
    ∃ t, exec i s = .next t ∧
      t.flag .tes = v.getLsbD 31 ∧ t.flag .qies = v.getLsbD 26 ∧ t.flag .ires = v.getLsbD 25 ∧
      t.flag .cfis = v.getLsbD 23 ∧ t.flag .rtps = (s.flag .rtps || v.getLsbD 30) ∧
      t.flag .irtps = (s.flag .irtps || v.getLsbD 24) ∧
      t.reg64 .iqh = (if s.flag .qies = true ∧ v.getLsbD 26 = false then 0 else s.reg64 .iqh) ∧
      OnlyBits s.regs t.regs [Flag.tes.span, Flag.qies.span, Flag.ires.span, Flag.cfis.span, Flag.rtps.span,
        Flag.irtps.span, Reg.iqh.span] ∧
      t = { s with
        regs := t.regs
        activeRtaddr := if v.getLsbD 30 then s.reg64 .rtaddr else s.activeRtaddr
        activeIrta := if v.getLsbD 24 then s.reg64 .irta else s.activeIrta
        wakePending := s.wakePending ||
          (v.getLsbD 26 && !s.flag .qies && !s.flag .iqe &&
            decide ((s.reg64 .iqh).toNat / 16 % 2 ^ 15 ≠ (s.reg64 .iqt).toNat / 16 % 2 ^ 15)) }

/-- The rows TE_SET, TE_CLR, IRE_SET, IRE_CLR, CFI_SET and CFI_CLR set their status bit to 1 or 0 and change nothing else
(R407). -/
def Obligations.LevelRows : Prop :=
  ∀ (s : State) (i : Instr) (f : Flag) (b : Bool),
    (i, f, b) ∈ [(Instr.gcmdTeSet, Flag.tes, true), (.gcmdTeClr, .tes, false), (.gcmdIreSet, .ires, true),
      (.gcmdIreClr, .ires, false), (.gcmdCfiSet, .cfis, true), (.gcmdCfiClr, .cfis, false)] →
      ∃ t, exec i s = .next t ∧ t = { s with regs := t.regs } ∧ t.flag f = b ∧ OnlyBits s.regs t.regs [f.span]

/-- Enabling queued invalidation sets QIES and wakes the worker if the queue is non-empty and no queue error is pending;
disabling it clears QIES and sets IQH to 0; repeating the current state changes nothing (R403, R404). -/
def Obligations.QieRows : Prop :=
  ∀ s : State,
    (∃ t, exec .gcmdQieSet s = .next t ∧ t.flag .qies = true ∧ OnlyBits s.regs t.regs [Flag.qies.span] ∧
      t = { s with
        regs := t.regs
        wakePending := s.wakePending ||
          (!s.flag .qies && !s.flag .iqe &&
            decide ((s.reg64 .iqh).toNat / 16 % 2 ^ 15 ≠ (s.reg64 .iqt).toNat / 16 % 2 ^ 15)) }) ∧
    (∃ t, exec .gcmdQieClr s = .next t ∧ t = { s with regs := t.regs } ∧ t.flag .qies = false ∧
      t.reg64 .iqh = (if s.flag .qies = true then 0 else s.reg64 .iqh) ∧
      OnlyBits s.regs t.regs [Flag.qies.span, Reg.iqh.span])

/-- SRTP copies all 64 bits of RTADDR to the active root pointer and sets RTPS; SIRTP copies all 64 bits of IRTA to the
active interrupt-remap-table pointer and sets IRTPS; nothing else changes (R405, R406). -/
def Obligations.PointerRows : Prop :=
  ∀ s : State,
    (∃ t, exec .gcmdSrtp s = .next t ∧ t = { s with regs := t.regs, activeRtaddr := s.reg64 .rtaddr } ∧
      t.flag .rtps = true ∧ OnlyBits s.regs t.regs [Flag.rtps.span]) ∧
    (∃ t, exec .gcmdSirtp s = .next t ∧ t = { s with regs := t.regs, activeIrta := s.reg64 .irta } ∧
      t.flag .irtps = true ∧ OnlyBits s.regs t.regs [Flag.irtps.span])

/-- The commands SFL, EAFL and WBF are ignored (R401). -/
def Obligations.IgnoredRows : Prop :=
  ∀ (s : State) (i : Instr), i ∈ [Instr.gcmdSfl, .gcmdEafl, .gcmdWbf] → exec i s = .next s

/-! ### DMA requests -/

/-- With translation disabled a request returns its input range with both permissions and domain 0, whatever its address
type, and a bulk request its addresses; no memory is read and nothing is recorded (R292). -/
def Obligations.DisabledTranslation : Prop :=
  ∀ s : State, s.flag .tes = false →
    (∀ sid addr len flags atype, translatePre addr len flags = true →
      exec (.dmaTranslate sid addr len flags atype) s = .next { s with
        replies := s.replies ++
          [⟨some (.dmaTranslate sid addr len flags atype), .translated addr len.toNat ⟨true, true⟩ 0⟩] }) ∧
    (∀ sid flags addrs, bulkPre flags addrs = true →
      exec (.dmaBulk sid flags addrs) s = .next { s with
        replies := s.replies ++ [⟨some (.dmaBulk sid flags addrs), .bulk addrs⟩] })

/-- A DMA request that breaks its precondition is REFUSED: no step is taken (R290, R330, D37). -/
def Obligations.DmaPreconditions : Prop :=
  ∀ s : State,
    (∀ (sid : BitVec 16) (addr len : Word64) (flags : Perm) (atype : AddrType),
      len.toNat = 0 ∨ 2 ^ 64 < addr.toNat + len.toNat ∨ (flags.read = false ∧ flags.write = false) →
        exec (.dmaTranslate sid addr len flags atype) s = .refused .precondition) ∧
    (∀ (sid : BitVec 16) (flags : Perm) (addrs : List Word64),
      addrs = [] ∨ (∃ a ∈ addrs, a.toNat % 4096 ≠ 0) ∨ (flags.read = false ∧ flags.write = false) →
        exec (.dmaBulk sid flags addrs) s = .refused .precondition)

/-- A DMA call that meets its precondition completes whatever the tables and the memory system hold. An OK translation
covers at least one byte and at most the requested length and grants every permission asked for (R290, R321, R322); an OK
bulk call gives one output for each address (R330); a failing one gives fewer, and none where R330's words are followed and
not 92 D46's (DESIGN CHOICE, assumption 27). -/
def Obligations.DmaCompletes : Prop :=
  ∀ (s : State) (sid : BitVec 16) (flags : Perm), flags.read = true ∨ flags.write = true →
    (∀ (addr len : Word64) (atype : AddrType), 0 < len.toNat → addr.toNat + len.toNat ≤ 2 ^ 64 →
      ∃ t r, exec (.dmaTranslate sid addr len flags atype) s = .next t ∧
        t.replies = s.replies ++ [⟨some (.dmaTranslate sid addr len flags atype), r⟩] ∧
        (r = .fail [] ∨ ∃ base clen perm did, r = .translated base clen perm did ∧ 1 ≤ clen ∧ clen ≤ len.toNat ∧
          (flags.read = true → perm.read = true) ∧ (flags.write = true → perm.write = true))) ∧
    (∀ addrs : List Word64, addrs ≠ [] → (∀ a ∈ addrs, a.toNat % 4096 = 0) →
      ∃ t r, exec (.dmaBulk sid flags addrs) s = .next t ∧
        t.replies = s.replies ++ [⟨some (.dmaBulk sid flags addrs), r⟩] ∧
        ((∃ earlier, r = .fail earlier ∧ earlier.length < addrs.length ∧ (s.params.bulkEarlier = false → earlier = [])) ∨
          ∃ outs, r = .bulk outs ∧ outs.length = addrs.length))

/-- The modes other than LEGACY fail without reading memory, for a translation and for a bulk call at its first address:
SCALABLE and RESERVED record their unqualified fault, ABORT_DMA records its fault only if ECAP.ADMS is 0 and otherwise
leaves `diag` and the registers alone (R296, R297, R298). -/
def Obligations.TableModes : Prop :=
  ∀ (s : State) (i : Instr) (req : FaultReq) (sid : BitVec 16) (flags : Perm), s.flag .tes = true →
    ((∃ addr len atype, i = .dmaTranslate sid addr len flags atype ∧ translatePre addr len flags = true ∧
        req = ⟨sid, addr, atype, !flags.write⟩) ∨
      (∃ a rest, i = .dmaBulk sid flags (a :: rest) ∧ bulkPre flags (a :: rest) = true ∧
        req = ⟨sid, a, .untranslated, !flags.write⟩)) →
      let failed (t : State) : Out := .next { t with replies := s.replies ++ [⟨some i, .fail []⟩] }
      (field s.activeRtaddr 10 2 = 0b01 → exec i s = failed (recordAtFault s .ttmScalable req false)) ∧
      (field s.activeRtaddr 10 2 = 0b10 → exec i s = failed (recordAtFault s .ttmReserved req false)) ∧
      (field s.activeRtaddr 10 2 = 0b11 →
        exec i s = failed (if (s.reg64 .ecap).getLsbD 50 then s else recordAtFault s .ttmAbortUnsupported req false))

/-- A page lookup faults exactly when the tables, as the memory system answers, say so, with the fault that comes first in
the order of the rules: reads that fail, presence, reserved bits, translation type, address type, widths, then in the
second-level walk, entry by entry, the read, write and read permission, reserved bits and the output window, qualified from
the context entry's read on (R300 to R315). A translation whose first page faults fails and records that fault. -/
def Obligations.EntryFaults : Prop :=
  (∀ (p : Params) (m : Memory) (sn : Snap) (sid : BitVec 16) (flags : Perm) (atype : AddrType) (addr : Word64)
    (o o' : List MemAnswer) (f : AtFault) (fpd : Bool),
    lookupPage p m sn sid flags atype addr o = (.error (f, fpd), o') ↔
      PageFaults p m sn sid flags atype addr o f fpd o') ∧
  (∀ (s : State) (sid : BitVec 16) (addr len : Word64) (flags : Perm) (atype : AddrType) (f : AtFault) (fpd : Bool)
    (o' : List MemAnswer), translatePre addr len flags = true → s.flag .tes = true → field s.activeRtaddr 10 2 = 0b00 →
    PageFaults s.params s.mem (takeSnap s) sid flags atype addr s.oracle f fpd o' →
      exec (.dmaTranslate sid addr len flags atype) s = .next
        { recordAtFault { s with oracle := o' } f ⟨sid, addr, atype, !flags.write⟩ fpd with
          replies := s.replies ++ [⟨some (.dmaTranslate sid addr len flags atype), .fail []⟩] })

/-- The page lookup finds exactly the pages that the tables map, however the memory system answers its reads: it answers a
hit if and only if root entry, context entry and page tables, read declaratively, give that hit (R294 to R315). -/
def Obligations.LookupIsPageMapped : Prop :=
  ∀ (p : Params) (m : Memory) (sn : Snap) (sid : BitVec 16) (flags : Perm) (atype : AddrType) (addr : Word64)
    (o : List MemAnswer) (h : PageHit) (o' : List MemAnswer), paramsOk p = true →
      (lookupPage p m sn sid flags atype addr o = (.ok h, o') ↔ PageMapped p m sn sid flags atype addr o h o')

/-- Requests of any number of pages (R305, R320, R330), however the memory system answers. A pass-through first page returns
the whole input range. Otherwise the range goes on over mapped, contiguous pages with the common permissions: to its end,
or to the first page that is pass-through or not contiguous, where it stops short; a page that faults on the way fails the
request and is recorded with that page's address. A bulk call returns the output of each address in order; its first fault
stops it and is recorded with its address; the outputs before it are returned where 92 D46 is followed (`bulkEarlier`) and
none where R330's words are (DESIGN CHOICE, assumption 27). -/
def Obligations.PagesTranslated : Prop :=
  ∀ (s : State) (sid : BitVec 16) (flags : Perm), paramsOk s.params = true → s.flag .tes = true →
    field s.activeRtaddr 10 2 = 0b00 →
    (∀ (addr len : Word64) (atype : AddrType) (h : PageHit) (o : List MemAnswer), translatePre addr len flags = true →
      PageMapped s.params s.mem (takeSnap s) sid flags atype addr s.oracle h o →
        let answered (o' : List MemAnswer) (r : Result) : Out :=
          .next { s with oracle := o', replies := s.replies ++ [⟨some (.dmaTranslate sid addr len flags atype), r⟩] }
        (h.isPt = true →
          exec (.dmaTranslate sid addr len flags atype) s =
            answered o (.translated addr len.toNat ⟨true, true⟩ h.did)) ∧
        (h.isPt = false → ∀ (d : Nat) (perm : Perm) (o1 : List MemAnswer),
          PagesTo s.params s.mem (takeSnap s) sid flags atype addr h.out len.toNat
            (min len.toNat (h.psize - addr.toNat % h.psize)) h.perm o d perm o1 →
          (len.toNat ≤ d →
            exec (.dmaTranslate sid addr len flags atype) s = answered o1 (.translated h.out len.toNat perm h.did)) ∧
          (d < len.toNat → ∀ (h2 : PageHit) (o2 : List MemAnswer),
            PageMapped s.params s.mem (takeSnap s) sid flags atype (addr + BitVec.ofNat 64 d) o1 h2 o2 →
            h2.isPt = true ∨ h2.out ≠ h.out + BitVec.ofNat 64 d →
              exec (.dmaTranslate sid addr len flags atype) s = answered o2 (.translated h.out d perm h.did)) ∧
          (d < len.toNat → ∀ (f : AtFault) (fpd : Bool) (o2 : List MemAnswer),
            PageFaults s.params s.mem (takeSnap s) sid flags atype (addr + BitVec.ofNat 64 d) o1 f fpd o2 →
              exec (.dmaTranslate sid addr len flags atype) s = .next
                { recordAtFault { s with oracle := o2 } f ⟨sid, addr + BitVec.ofNat 64 d, atype, !flags.write⟩ fpd with
                  replies := s.replies ++ [⟨some (.dmaTranslate sid addr len flags atype), .fail []⟩] }))) ∧
    (∀ (addrs outs : List Word64) (o : List MemAnswer),
      BulkMapped s.params s.mem (takeSnap s) sid flags addrs s.oracle outs o →
      (bulkPre flags addrs = true →
        exec (.dmaBulk sid flags addrs) s = .next { s with
          oracle := o
          replies := s.replies ++ [⟨some (.dmaBulk sid flags addrs), .bulk outs⟩] }) ∧
      (∀ (a : Word64) (rest : List Word64) (f : AtFault) (fpd : Bool) (o1 : List MemAnswer),
        bulkPre flags (addrs ++ a :: rest) = true →
        PageFaults s.params s.mem (takeSnap s) sid flags .untranslated a o f fpd o1 →
          exec (.dmaBulk sid flags (addrs ++ a :: rest)) s = .next
            { recordAtFault { s with oracle := o1 } f ⟨sid, a, .untranslated, !flags.write⟩ fpd with
              replies := s.replies ++
                [⟨some (.dmaBulk sid flags (addrs ++ a :: rest)), .fail (if s.params.bulkEarlier then outs else [])⟩] }))

/-! ### Requests as steps -/

/-- Snapshot, walk and record taken one after another are the operation, for a bulk call element by element, with or without
a new snapshot for each (R156, R330). A bulk call between two elements may take a new snapshot, of the registers as they are
then; no other request may. That the schedule chooses whether it does is the model's reading of R156's "each element" and
R330's "one snapshot step" (DEDUCED, assumption 16). -/
def Obligations.SplitIsAtomic : Prop :=
  (∀ (s : State) (i : Instr) (r : Request), requestOf i = some r → i.wellFormed = true →
    ∃ s1, beginRequest s i = .next s1 ∧ (∃ t, Undisturbed s.inflight.length s1 t) ∧
      ∀ t, Undisturbed s.inflight.length s1 t → exec i s = .next t) ∧
  (∀ (s : State) (k : Nat) (x : InFlight), s.inflight[k]? = some x →
    (BetweenElements x →
      snapshotInFlight s k = .next { s with inflight := s.inflight.set k { x with snap := takeSnap s } }) ∧
    (¬ BetweenElements x → snapshotInFlight s k = .refused .notEnabled))

/-- No MMIO write changes what a request in flight finds: whichever request it is, if its walk (of a bulk call, the walk of its
next element) has not been taken, the walk after the write has the result of the walk before it. A GCMD write or an RTADDR or
IRTA write after a snapshot does not affect what is walked under it (R156, R291, R361, R560). That a bulk call's later elements
are walked under the snapshot of an earlier one (R330), unless the schedule takes a new one for them (R156), is the model's
reading (DEDUCED, assumption 16). -/
def Obligations.SnapshotIsolation : Prop :=
  ∀ (s s2 : State) (k : Nat) (r : Request) (sn : Snap) (outs : List Word64) (j : Instr)
      (w : Nat × Nat × Word64),
    s.inflight[k]? = some ⟨r, sn, outs, none⟩ → writeOf j = some w → exec j s = .next s2 →
      s2.inflight = s.inflight ∧
      ∃ t1 t2, walkInFlight s k = .next t1 ∧ walkInFlight s2 k = .next t2 ∧ t1.inflight = t2.inflight ∧
        t1.oracle = t2.oracle

/-- A DMA or interrupt request changes no guest memory and no state but the reply to its caller and, if it fails, `diag`,
FSTS, FRCD, FECTL.IP and the event it sends (R316, R323, R373). -/
def Obligations.RequestsFrame : Prop :=
  ∀ (s t : State) (i : Instr) (r : Request), requestOf i = some r → exec i s = .next t →
    t = { s with regs := t.regs, diag := t.diag, oracle := t.oracle, outputs := t.outputs, replies := t.replies } ∧
    OnlyBits s.regs t.regs [Reg.fsts.span, Reg.frcdLo.span, Reg.frcdHi.span, Flag.feIp.span] ∧
    ∃ res, t.replies = s.replies ++ [⟨some i, res⟩] ∧
      ((∀ earlier, res ≠ .fail earlier) → t = { s with oracle := t.oracle, replies := t.replies })

/-! ### Interrupt requests -/

/-- With interrupt remapping disabled a request of either format returns its MSI unchanged; no table is read and nothing is
recorded (R362). -/
def Obligations.DisabledRemapping : Prop :=
  ∀ (s : State) (sid : BitVec 16) (a : Word64) (d : Word32), s.flag .ires = false →
    exec (.irqRemapCompat sid a d) s =
      .next { s with replies := s.replies ++ [⟨some (.irqRemapCompat sid a d), .msi a d⟩] } ∧
    exec (.irqRemap sid a d) s = .next { s with replies := s.replies ++ [⟨some (.irqRemap sid a d), .msi a d⟩] }

/-- A compatibility-format request passes unchanged if CFIS is 1 and extended interrupt mode is off, and otherwise is
blocked, which is recorded with no index (R363). -/
def Obligations.CompatFormat : Prop :=
  ∀ (s : State) (sid : BitVec 16) (a : Word64) (d : Word32), s.flag .ires = true →
    exec (.irqRemapCompat sid a d) s = .next
      (if s.flag .cfis = true ∧ s.activeIrta.getLsbD 11 = false then
        { s with replies := s.replies ++ [⟨some (.irqRemapCompat sid a d), .msi a d⟩] }
      else
        { recordIrFault s .compatBlocked sid none false with
          replies := s.replies ++ [⟨some (.irqRemapCompat sid a d), .fail []⟩] })

/-- A remappable request whose entry is read and passes every check returns the MSI that R372 builds from the entry, field
by field, and changes nothing. -/
def Obligations.RemapDelivers : Prop :=
  ∀ (s : State) (sid : BitVec 16) (a : Word64) (d : Word32) (index : Nat) (q0 q1 : Word64) (o : List MemAnswer),
    s.flag .ires = true →
    index = (if a.getLsbD 2 then 2 ^ 15 else 0) + a.toNat / 32 % 2 ^ 15 + (if a.getLsbD 3 then d.toNat % 2 ^ 16 else 0) →
    index < 2 ^ (s.activeIrta.toNat % 16 + 1) →
    Reads128 s.mem s.oracle ((s.activeIrta &&& hawMask s.params) + BitVec.ofNat 64 (16 * index)) q0 q1 o →
    q0.getLsbD 0 = true → IrteClean (s.activeIrta.getLsbD 11) q0 q1 → SourceAccepted sid q1 → q0.getLsbD 15 = false →
      ∃ oa od, exec (.irqRemap sid a d) s =
          .next { s with oracle := o, replies := s.replies ++ [⟨some (.irqRemap sid a d), .msi oa od⟩] } ∧
        field oa 0 2 = 0 ∧ oa.getLsbD 2 = q0.getLsbD 2 ∧ oa.getLsbD 3 = q0.getLsbD 3 ∧ field oa 4 8 = 0 ∧
        field oa 12 8 = (if s.activeIrta.getLsbD 11 then field q0 32 8 else field q0 40 8) ∧
        field oa 20 12 = 0xFEE ∧ field oa 32 8 = 0 ∧
        field oa 40 24 = (if s.activeIrta.getLsbD 11 then field q0 40 24 else 0) ∧
        field od 0 8 = field q0 16 8 ∧ field od 8 3 = field q0 5 3 ∧ field od 11 3 = 0 ∧
        od.getLsbD 14 = s.params.irLevel ∧ od.getLsbD 15 = q0.getLsbD 4 ∧ field od 16 16 = 0

/-- The faults of a remappable request in the order of R374: index range, the entry's read, presence, reserved bits,
reserved validation type, source ID, posted. Each denies the remap and is recorded with the index, qualified once the entry
has been read. -/
def Obligations.RemapFaults : Prop :=
  ∀ (s : State) (sid : BitVec 16) (a : Word64) (d : Word32) (index : Nat), s.flag .ires = true →
    index = (if a.getLsbD 2 then 2 ^ 15 else 0) + a.toNat / 32 % 2 ^ 15 + (if a.getLsbD 3 then d.toNat % 2 ^ 16 else 0) →
      let failed (o : List MemAnswer) (f : IrFault) (fpd : Bool) : Out :=
        .next { recordIrFault { s with oracle := o } f sid (some index) fpd with
          replies := s.replies ++ [⟨some (.irqRemap sid a d), .fail []⟩] }
      (2 ^ (s.activeIrta.toNat % 16 + 1) ≤ index →
        exec (.irqRemap sid a d) s = failed s.oracle .indexOutOfRange false) ∧
      (index < 2 ^ (s.activeIrta.toNat % 16 + 1) →
        (∀ o, Fails s.oracle o → exec (.irqRemap sid a d) s = failed o .irteReadFailed false) ∧
        ∀ (q0 q1 : Word64) (o : List MemAnswer) (f : IrFault),
          Reads128 s.mem s.oracle ((s.activeIrta &&& hawMask s.params) + BitVec.ofNat 64 (16 * index)) q0 q1 o →
          (if q0.getLsbD 0 = false then f = .irteNotPresent
            else if ¬ IrteClean (s.activeIrta.getLsbD 11) q0 q1 then f = .irteRsvd
            else if field q1 18 2 = 3 then f = .svtReserved
            else if ¬ SourceAccepted sid q1 then f = (if field q1 18 2 = 1 then .sidMismatch else .busOutOfRange)
            else q0.getLsbD 15 = true ∧ f = .posted) →
            exec (.irqRemap sid a d) s = failed o f (q0.getLsbD 1))

/-! ### Faults and events -/

/-- Raising an event sends its MSI and clears the pending bit when unmasked, and only sets the pending bit when masked
(R492, R493). -/
def Obligations.RaiseEvent : Prop :=
  ∀ (s : State) (k : EventKind), EventRaised k s (raiseEvent s k) ∧
    OnlyBits s.regs (raiseEvent s k).regs [k.ip.span] ∧
    raiseEvent s k = { s with regs := (raiseEvent s k).regs, outputs := (raiseEvent s k).outputs }

/-- Taking a primary fault: a free slot stores the record and raises the fault event, an occupied one only sets PFO
(R485). -/
def Obligations.RecordPrimaryFault : Prop :=
  ∀ (s : State) (hi lo : Word64), FaultTaken hi lo s (recordPrimaryFault s hi lo)

/-- An address-translation or interrupt-remapping fault always sets `diag`; a qualified one of an entry with FPD set
changes nothing else; any other is taken as a primary fault with its source ID, reason, address type, request type and
page address or index in the record (R486, R488, R490, R491). -/
def Obligations.RecordRequestFault : Prop :=
  ∀ s : State,
    (∀ (f : AtFault) (r : FaultReq) (fpd : Bool),
      if atQualified f = true ∧ fpd = true then recordAtFault s f r fpd = { s with diag := .at f }
      else ∃ hi lo, FaultTaken hi lo { s with diag := .at f } (recordAtFault s f r fpd) ∧
        lo.toNat = r.addr.toNat / 4096 * 4096 ∧ field hi 0 16 = r.sid ∧ field hi 16 16 = 0 ∧
        field hi 32 8 = atReason s.params f ∧ field hi 40 20 = 0 ∧
        (field hi 60 2).toNat = (match r.atype with | .untranslated => 0 | .translationReq => 1 | .translated => 2) ∧
        hi.getLsbD 62 = r.isRead ∧ hi.getLsbD 63 = false) ∧
    (∀ (f : IrFault) (sid : BitVec 16) (index : Option Nat) (fpd : Bool),
      if irQualified f = true ∧ fpd = true then recordIrFault s f sid index fpd = { s with diag := .ir f }
      else ∃ hi lo, FaultTaken hi lo { s with diag := .ir f } (recordIrFault s f sid index fpd) ∧
        lo.toNat = (match index with | none => 0 | some x => x % 2 ^ 16 * 2 ^ 48) ∧ field hi 0 16 = sid ∧
        field hi 16 16 = 0 ∧ field hi 32 8 = irReason s.params f ∧ field hi 40 24 = 0)

/-- The fault-reason codes of R200 and the qualified faults of R489, fault by fault. -/
def Obligations.FaultTable : Prop :=
  ∀ p : Params,
    ([.ttmScalable, .ttmAbortUnsupported, .ttmReserved, .rootReadFailed, .rootNotPresent, .rootRsvd, .ctxReadFailed,
      .ctxNotPresent, .ctxRsvd, .ctxTtInvalid, .ctxAwInvalid, .ttBlocked, .addrBeyondWidth, .slReadFailed, .slWriteDenied,
      .slReadDenied, .slRsvd, .outInWindow].map (fun f => (atReason p f, atQualified f)) =
      [(p.frTtmScalable, false), (p.frTtmAbort, false), (p.frTtmReserved, false), (0x08, false), (0x01, false),
        (0x0A, false), (0x09, false), (0x02, true), (0x0B, true), (0x03, true), (0x03, true), (0x0D, true), (0x04, true),
        (0x07, true), (0x05, true), (0x06, true), (0x0C, true), (p.frOutInWindow, true)]) ∧
    ([.indexOutOfRange, .irteNotPresent, .irteReadFailed, .irteRsvd, .svtReserved, .compatBlocked, .sidMismatch,
      .busOutOfRange, .posted].map (fun f => (irReason p f, irQualified f)) =
      [(0x21, false), (0x22, true), (0x23, false), (0x24, true), (0x24, true), (0x25, false), (0x26, true), (0x26, true),
        (p.frIrPosted, true)])

/-- Taking a queue error sets `diag`, IQE and IQERCD and raises the fault event; FRCD and PPF are not touched (R495). -/
def Obligations.RecordQueueError : Prop :=
  ∀ (s : State) (e : IqError), QueueErrorTaken e s (recordIqError s e)

/-! ### The invalidation queue -/

/-- An acknowledged descriptor is counted and the next one is up: whatever its fields, no register and no guest memory
changes (R447). -/
def Obligations.AcknowledgedTypes : Prop :=
  ∀ (s : State) (d : Desc) (row : Instr × AckType) (q : QSnap) (ds : List Desc) (k : Nat), row ∈ ackRows d →
    s.wphase = .dispatching q ds k .start →
      ∃ c, exec row.1 s = .next { s with stats := c, wphase := .dispatching q ds (k + 1) .start } ∧
        ∀ u, c.get u = s.stats.get u + (if u = row.2 then 1 else 0)

/-- An unrecognised descriptor type is a queue error that stops the batch; IQH stays where it is (R446, R456). -/
def Obligations.ReservedTypes : Prop :=
  ∀ (s : State) (d : Desc) (i : Instr) (q : QSnap) (ds : List Desc) (k : Nat), i ∈ rsvdRows d →
    s.wphase = .dispatching q ds k .start →
      ∃ t, exec i s = .next t ∧ BatchStopped .dscTypeInvalid s t ∧ t.reg64 .iqh = s.reg64 .iqh

/-- A wait descriptor with no reserved bit set writes its status word if SW asks for it, and only those four bytes, and
goes on to its signal stage if IF is set and to the next descriptor otherwise; FN, and PD where it is valid, have no
effect (R450, R452, R454, R455). -/
def Obligations.WaitCompletes : Prop :=
  ∀ (s : State) (d : Desc) (q : QSnap) (ds : List Desc) (k : Nat), s.mem.wf → s.wphase = .dispatching q ds k .start →
    (d.qw0.getLsbD 7 = true → (s.reg64 .ecap).getLsbD 42 = true) → d.qw0.getLsbD 8 = false → field d.qw0 12 20 = 0 →
    field d.qw1 0 2 = 0 → (d.qw0.getLsbD 5 = true → s.oracle.head? ≠ some .fail) →
      ∃ t, exec (.dscInvWait d) s = .next t ∧
        t.wphase = (if d.qw0.getLsbD 4 then .dispatching q ds k .signal else .dispatching q ds (k + 1) .start) ∧
        if d.qw0.getLsbD 5 = true then
          t = { s with wphase := t.wphase, mem := t.mem, oracle := s.oracle.tail, outputs := t.outputs } ∧
          t.outputs = s.outputs ++ [.writeGuest d.qw1 [byteOf d.qw0 4, byteOf d.qw0 5, byteOf d.qw0 6, byteOf d.qw0 7]] ∧
          ∀ a, t.mem.byteAt a =
            if d.qw1.toNat ≤ a.toNat ∧ a.toNat < d.qw1.toNat + 4 then byteOf d.qw0 (4 + (a.toNat - d.qw1.toNat))
            else s.mem.byteAt a
        else t = { s with wphase := t.wphase }

/-- A wait descriptor with a reserved bit set is a queue error before anything is written; a failed status write is a queue
error after which the completion interrupt does not happen (R451, R452, R456). That the refused write leaves memory as it was
and is an output event all the same is the model's choice (assumption 5). -/
def Obligations.WaitErrors : Prop :=
  ∀ (s : State) (d : Desc) (q : QSnap) (ds : List Desc) (k : Nat), s.wphase = .dispatching q ds k .start →
    ((d.qw0.getLsbD 7 = true ∧ (s.reg64 .ecap).getLsbD 42 = false) ∨ d.qw0.getLsbD 8 = true ∨ field d.qw0 12 20 ≠ 0 ∨
        field d.qw1 0 2 ≠ 0 →
      ∃ t, exec (.dscInvWait d) s = .next t ∧ BatchStopped .waitRsvd s t) ∧
    ((d.qw0.getLsbD 7 = true → (s.reg64 .ecap).getLsbD 42 = true) → d.qw0.getLsbD 8 = false → field d.qw0 12 20 = 0 →
        field d.qw1 0 2 = 0 → d.qw0.getLsbD 5 = true → s.oracle.head? = some .fail →
      ∃ t, exec (.dscInvWait d) s = .next t ∧
        BatchStopped .waitStatusWriteFailed
          { s with
            oracle := s.oracle.tail
            outputs := s.outputs ++
              [.writeGuest d.qw1 [byteOf d.qw0 4, byteOf d.qw0 5, byteOf d.qw0 6, byteOf d.qw0 7]] } t)

/-- The signal step of a wait descriptor: if IWC is 0 it becomes 1 and the completion event is raised, else nothing; then
the next descriptor is up (R453). -/
def Obligations.SignalStep : Prop :=
  ∀ (s : State) (q : QSnap) (ds : List Desc) (k : Nat), WorkerTurn s → s.wphase = .dispatching q ds k .signal →
    ∃ t, step s = .next t ∧
      t = { s with regs := t.regs, outputs := t.outputs, agenda := s.agenda.tail,
                   wphase := .dispatching q ds (k + 1) .start } ∧
      if s.flag .iwc = true then t.regs = s.regs ∧ t.outputs = s.outputs
      else t.flag .iwc = true ∧ EventRaised .invCompletion s t ∧
        OnlyBits s.regs t.regs [Flag.iwc.span, Flag.ieIp.span]

/-- The worker looking for work, after a wake or at the end of a batch (R433, R434, R435): with the queue disabled, in
error or empty it sleeps; else the first failing check of mode, tail range, tail alignment and head range is a queue error
that starts no batch; else it fetches under a snapshot of the queue registers. -/
def Obligations.QueueCheck : Prop :=
  ∀ s : State,
    let head := (s.reg64 .iqh).toNat / 16 % 2 ^ 15 * 16
    let tail := (s.reg64 .iqt).toNat / 16 % 2 ^ 15 * 16
    let size := 4096 * 2 ^ ((s.reg64 .iqa).toNat % 8)
    let wide := (s.reg64 .iqa).getLsbD 11
    if s.flag .qies = false ∨ s.flag .iqe = true ∨ head = tail then checkQueue s = { s with wphase := .idle }
    else if field s.activeRtaddr 10 2 = 0b10 then BatchStopped .ttmReserved s (checkQueue s)
    else if size ≤ tail then BatchStopped .tailInvalid s (checkQueue s)
    else if wide = true ∧ tail % 32 ≠ 0 then BatchStopped .tailMisaligned s (checkQueue s)
    else if size ≤ head then BatchStopped .tailInvalid s (checkQueue s)
    else ∃ q, checkQueue s = { s with wphase := .fetching q } ∧ SnapOk q ∧
      q.base = s.reg64 .iqa &&& hawMask s.params &&& ~~~0xFFF ∧ q.size = size ∧ q.wide = wide ∧
      q.ttm = field s.activeRtaddr 10 2 ∧ q.head = head ∧ q.tail = tail

/-- The fetch step reads the pending descriptors in ring order from the head, wrapping at the ring's end with a second read,
and changes nothing but the worker phase (R436). If any read fails the fetch fails: nothing of it is kept, and the failure
is left to the next step. -/
def Obligations.FetchStep : Prop :=
  ∀ (s : State) (q : QSnap), WorkerTurn s → s.wphase = .fetching q → SnapOk q →
    ((∀ x ∈ s.oracle.take 2, x = .honest) →
      ∃ b, step s = .next { s with
          agenda := s.agenda.tail
          oracle := s.oracle.drop (if q.tail < q.head ∧ q.tail ≠ 0 then 2 else 1)
          wphase := .fetched q (some b) } ∧
        b.length = pendingBytes q ∧
        ∀ j < pendingBytes q, b[j]? = some (s.mem.byteAt (q.base + BitVec.ofNat 64 ((q.head + j) % q.size)))) ∧
    (∀ o, Fails s.oracle o →
      step s = .next { s with agenda := s.agenda.tail, oracle := o, wphase := .fetched q none }) ∧
    (q.tail < q.head → q.tail ≠ 0 → ∀ x o, s.oracle = x :: o → x ≠ .fail → ∀ o', Fails o o' →
      step s = .next { s with agenda := s.agenda.tail, oracle := o', wphase := .fetched q none })

/-- The advance step sets IQH to the snapshot's tail, whatever the live registers hold, and splits the bytes into
descriptors in ring order (R436, R438); after a failed read it is a queue error and IQH is unchanged (R437). -/
def Obligations.AdvanceStep : Prop :=
  ∀ (s : State) (q : QSnap) (bs : Option (List Byte)), WorkerTurn s → s.wphase = .fetched q bs →
    (∀ b, bs = some b →
      ∃ t ds, step s = .next t ∧
        t = { s with regs := t.regs, agenda := s.agenda.tail, wphase := .dispatching q ds 0 .start } ∧
        t.reg64 .iqh = BitVec.ofNat 64 q.tail ∧ OnlyBits s.regs t.regs [Reg.iqh.span] ∧
        ds.length = b.length / (if q.wide then 32 else 16) ∧
        ∀ k d, ds[k]? = some d → ∀ j < 8,
          byteOf d.qw0 j = b.getD (k * (if q.wide then 32 else 16) + j) 0 ∧
          byteOf d.qw1 j = b.getD (k * (if q.wide then 32 else 16) + 8 + j) 0) ∧
    (bs = none →
      ∃ t, step s = .next t ∧ BatchStopped .fetchFailed { s with agenda := s.agenda.tail } t ∧
        t.reg64 .iqh = s.reg64 .iqh)

/-- The idle worker exits if it is shut down, whether or not a wake is pending; else a wake is taken and the queue checked;
else it sleeps. At the end of a batch it exits if it is shut down and checks the queue otherwise. An exited worker takes no
step (R432, R441, R546). -/
def Obligations.WorkerTurns : Prop :=
  ∀ s : State, WorkerTurn s →
    (s.wphase = .idle → step s = .next
      (if s.shutdown = true then { s with agenda := s.agenda.tail, wphase := .exited }
      else if s.wakePending = true then checkQueue { s with agenda := s.agenda.tail, wakePending := false }
      else { s with agenda := s.agenda.tail })) ∧
    (∀ q ds, s.wphase = .dispatching q ds ds.length .start → step s = .next
      (if s.shutdown = true then { s with agenda := s.agenda.tail, wphase := .exited }
      else checkQueue { s with agenda := s.agenda.tail })) ∧
    (s.wphase = .exited → step s = .next { s with agenda := s.agenda.tail })

/-! ### Reset and the host's steps -/

/-- The reset state, for every choice of the parameters and the window extents (R11, R540): VER, CAP and ECAP hold the
capability snapshot, FECTL and IECTL are masked, every other register byte is 0, and the hidden state is at its reset
value. That State.reset has the defaults of R11 is the model's choice (assumption 1). -/
def Obligations.ResetState : Prop :=
  State.reset = resetWith defaultParams defaultWindows ∧
  ∀ (p : Params) (w : Windows), let s := resetWith p w
    s.params = p ∧ s.regs.win = w ∧
    s.reg32 .ver = verValue p ∧ s.reg64 .cap = capValue p ∧ s.reg64 .ecap = ecapValue p ∧
    s.reg32 .fectl = 0x80000000 ∧ s.reg32 .iectl = 0x80000000 ∧
    (∀ o, 4 ≤ o → ¬ (8 ≤ o ∧ o < 0x18) → ¬ (0x38 ≤ o ∧ o < 0x3C) → ¬ (0xA0 ≤ o ∧ o < 0xA4) → s.regs.byte o = 0) ∧
    s.activeRtaddr = 0 ∧ s.activeIrta = 0 ∧ s.diag = .none ∧ s.wphase = .idle ∧ s.wakePending = false ∧
    s.shutdown = false ∧ (∀ u, s.stats.get u = 0) ∧ s.outputs = []

/-- The fields of the capability snapshot, bit by bit, for parameters in range (R12, R40, R44, R45). -/
def Obligations.CapabilityFields : Prop :=
  ∀ p : Params, paramsOk p = true →
    field (verValue p) 0 4 = p.verMinor ∧ field (verValue p) 4 4 = p.verMajor ∧ field (verValue p) 8 24 = 0 ∧
    (∀ j < 64, (capValue p).getLsbD j =
      if j < 3 then p.nd.getLsbD j
      else if j = 9 then true
      else if j = 10 then decide (39 < p.mgaw)
      else if j = 11 then decide (48 < p.mgaw)
      else if 16 ≤ j ∧ j < 22 then (p.mgaw - 1).testBit (j - 16)
      else if 24 ≤ j ∧ j < 34 then (0xE7 : Nat).testBit (j - 24)
      else if 34 ≤ j ∧ j < 36 then p.sllps.getLsbD (j - 34)
      else false) ∧
    (∀ j < 64, (ecapValue p).getLsbD j =
      if j = 1 ∨ j = 3 then true
      else if j = 4 then p.eim
      else if j = 6 then p.pt
      else if 8 ≤ j ∧ j < 18 then (0xE5 : Nat).testBit (j - 8)
      else if j = 42 then p.pds
      else if j = 50 then p.adms
      else false)

/-- The host's steps. A reset or restore is refused while a request is in flight or the worker is busy (R542, R545). A reset
gives every item of the device its reset value under the same parameters and extents (R542); that it leaves guest memory,
the memory answers, the output history and the replies is read from R542's list (DEDUCED, assumption 14). A restore whose
snapshot registers, blob sizes or offset list are not the device's is a hard failure: the machine stops (R545). Of one that
fits, the register groups and both pointers become the image's, `diag` is NONE, the worker is idle and not woken, and no
handler runs (R545). That an image whose blobs hold other VER, CAP or ECAP bytes than the snapshot's is a hard failure too is
the model's choice (assumption 12), and so are that a restore withdraws a pending wake and leaves the shutdown flag
(assumption 13) and that it stores every blob byte as it is (assumption 26). A shutdown sets the worker's flag (R546). -/
def Obligations.HostSteps : Prop :=
  ∀ (s : State) (rest : List Event) (img : RestoreImage),
    (s.agenda = .shutdown :: rest → step s = .next { s with agenda := rest, shutdown := true }) ∧
    (s.agenda = .reset :: rest ∨ s.agenda = .restore img :: rest →
      s.inflight ≠ [] ∨ (s.wphase ≠ .idle ∧ s.wphase ≠ .exited) → step s = .refused .hostStepBusy) ∧
    (s.inflight = [] → s.wphase = .idle ∨ s.wphase = .exited →
      (s.agenda = .reset :: rest → step s = .next { resetWith s.params s.regs.win with
        mem := s.mem, oracle := s.oracle, agenda := rest, outputs := s.outputs, replies := s.replies }) ∧
      (s.agenda = .restore img :: rest →
        let snapshotSame := img.ver = verValue s.params ∧ img.cap = capValue s.params ∧ img.ecap = ecapValue s.params
        let sizesSame := img.g0.length = s.regs.win.g0End ∧ img.g1.length = s.regs.win.g1End - s.regs.win.g1First ∧
          img.offs = [0xE50, 0xE58, 0xE70]
        let blobSame := (∀ k < 4, img.g0.getD k 0 = byteOf (verValue s.params) k) ∧
          (∀ k < 8, img.g0.getD (0x008 + k) 0 = byteOf (capValue s.params) k) ∧
          (∀ k < 8, img.g0.getD (0x010 + k) 0 = byteOf (ecapValue s.params) k)
        (¬ (snapshotSame ∧ sizesSame) → step s = .fault .restoreFailed) ∧
        (¬ blobSame → step s = .fault .restoreFailed) ∧
        (snapshotSame ∧ sizesSame ∧ blobSame →
          ∃ t, step s = .next t ∧ t.regs.win = s.regs.win ∧
            (∀ o < s.regs.win.g0End, t.regs.byte o = img.g0.getD o 0) ∧
            (∀ o < s.regs.win.g1End - s.regs.win.g1First, t.regs.byte (s.regs.win.g1First + o) = img.g1.getD o 0) ∧
            t = { s with
              regs := t.regs, activeRtaddr := img.rt, activeIrta := img.irta, diag := .none, wphase := .idle,
              wakePending := false, agenda := rest })))

/-! ### Invariants and whole-machine rules -/

/-- The invariant holds right after reset, for every choice of parameters in range and of extents, and the fault slot is
coherent. -/
def Obligations.InvAtReset : Prop :=
  (∀ p w, paramsOk p = true → Inv (resetWith p w) ∧ SlotInv (resetWith p w)) ∧ Inv State.reset ∧ SlotInv State.reset

/-- Every step keeps the invariant, the parameters and the window extents: VER, CAP and ECAP keep the values derived from
parameters that never change (R12, R43), memory stays canonical, and the worker's batch stays coherent (R432, R570). -/
def Obligations.InvKept : Prop :=
  ∀ s t : State, Inv s → step s = .next t → Inv t ∧ t.params = s.params ∧ t.regs.win = s.regs.win

/-- Every step but a restore keeps PPF equal to FRCD.F, so the slot is free exactly when software has cleared F
(R485, R487, D20). -/
def Obligations.SlotKept : Prop :=
  ∀ s t : State, SlotInv s → (∀ img, s.agenda.head? ≠ some (.restore img)) → step s = .next t → SlotInv t

/-- The active root pointer and the active interrupt-remap-table pointer change only by a GCMD write with SRTP or SIRTP,
which copies the live register, or by a reset or a restore (R71, R72, R560). -/
def Obligations.ActivePointers : Prop :=
  ∀ s t : State, step s = .next t →
    (t.activeRtaddr = s.activeRtaddr ∨ (s.agenda.head? = some .reset ∧ t.activeRtaddr = 0) ∨
      (∃ img, s.agenda.head? = some (.restore img) ∧ t.activeRtaddr = img.rt) ∨
      ∃ bs i n v, s.agenda.head? = some (.call .mmio bs) ∧ decode (.call .mmio) bs = .ok i ∧
        writeOf i = some (0x018, n, v) ∧ v.getLsbD 30 = true ∧ t.activeRtaddr = s.reg64 .rtaddr) ∧
    (t.activeIrta = s.activeIrta ∨ (s.agenda.head? = some .reset ∧ t.activeIrta = 0) ∨
      (∃ img, s.agenda.head? = some (.restore img) ∧ t.activeIrta = img.irta) ∨
      ∃ bs i n v, s.agenda.head? = some (.call .mmio bs) ∧ decode (.call .mmio) bs = .ok i ∧
        writeOf i = some (0x018, n, v) ∧ v.getLsbD 24 = true ∧ t.activeIrta = s.reg64 .irta)

/-- A byte of guest memory changes only by a store of guest software or by the status write of a wait descriptor with SW,
and then it lies in the four bytes at the descriptor's status address (R153, R572). -/
def Obligations.GuestMemory : Prop :=
  ∀ (s t : State) (a : Word64), s.mem.wf → step s = .next t → t.mem.byteAt a ≠ s.mem.byteAt a →
    (∃ a0 bs, s.agenda.head? = some (.guestStore a0 bs) ∧ ∃ k < bs.length, a = a0 + BitVec.ofNat 64 k) ∨
    (WorkerTurn s ∧ ∃ q ds k d, s.wphase = .dispatching q ds k .start ∧ ds[k]? = some d ∧ d.qw0 &&& 0xE0F = 0x005 ∧
      d.qw0.getLsbD 5 = true ∧ (d.qw1 &&& ~~~0x3#64).toNat ≤ a.toNat ∧ a.toNat < (d.qw1 &&& ~~~0x3#64).toNat + 4)
end

