-- ==== Sys2Proof/Laws/Bytes.lean ====
section
/-! SUPPORT. Bytes and values: the little-endian readings undo the little-endian writings, and the bit-level facts of
the field assignments. -/

namespace Sys2Proof.Machine

theorem byteOf_getLsbD {w : Nat} (v : BitVec w) (k j : Nat) :
    (byteOf v k).getLsbD j = (decide (j < 8) && v.getLsbD (8 * k + j)) := by
  simp [byteOf]

/-- A 16-bit value is its two bytes. -/
@[simp] theorem le16_bytes (v : BitVec 16) : le16 (byteOf v 0) (byteOf v 1) = v := by
  apply BitVec.eq_of_getLsbD_eq
  intro i hi
  simp only [le16, BitVec.getLsbD_append, byteOf_getLsbD]
  split
  · simp_all
  · have : i - 8 < 8 := by omega
    simp [this]; congr 1; omega

/-- A 32-bit value is its four bytes. -/
@[simp] theorem le32_bytes (v : Word32) : le32 (byteOf v 0) (byteOf v 1) (byteOf v 2) (byteOf v 3) = v := by
  apply BitVec.eq_of_getLsbD_eq
  intro i hi
  simp only [le32, BitVec.getLsbD_append, byteOf_getLsbD]
  split
  · simp_all
  split
  · have : i - 8 < 8 := by omega
    simp [this]; congr 1; omega
  split
  · have : i - 8 - 8 < 8 := by omega
    simp [this]; congr 1; omega
  · have : i - 8 - 8 - 8 < 8 := by omega
    simp [this]; congr 1; omega

/-- Byte `k` of four bytes read little-endian is the `k`-th of them. -/
theorem byteOf_le32 (b0 b1 b2 b3 : Byte) :
    byteOf (le32 b0 b1 b2 b3) 0 = b0 ∧ byteOf (le32 b0 b1 b2 b3) 1 = b1 ∧ byteOf (le32 b0 b1 b2 b3) 2 = b2
      ∧ byteOf (le32 b0 b1 b2 b3) 3 = b3 := by
  refine ⟨?_, ?_, ?_, ?_⟩ <;>
    (apply BitVec.eq_of_getLsbD_eq; intro i hi; simp only [byteOf_getLsbD, le32, BitVec.getLsbD_append]) <;>
    (rw [show decide (i < 8) = true by simpa using hi, Bool.true_and])
  · rw [if_pos (by omega)]; congr 1; omega
  · rw [if_neg (by omega), if_pos (by omega)]; congr 1; omega
  · rw [if_neg (by omega), if_neg (by omega), if_pos (by omega)]; congr 1; omega
  · rw [if_neg (by omega), if_neg (by omega), if_neg (by omega)]; congr 1; omega

@[simp] theorem byteOf_le32_0 (b0 b1 b2 b3 : Byte) : byteOf (le32 b0 b1 b2 b3) 0 = b0 := (byteOf_le32 b0 b1 b2 b3).1
@[simp] theorem byteOf_le32_1 (b0 b1 b2 b3 : Byte) : byteOf (le32 b0 b1 b2 b3) 1 = b1 := (byteOf_le32 b0 b1 b2 b3).2.1
@[simp] theorem byteOf_le32_2 (b0 b1 b2 b3 : Byte) : byteOf (le32 b0 b1 b2 b3) 2 = b2 := (byteOf_le32 b0 b1 b2 b3).2.2.1
@[simp] theorem byteOf_le32_3 (b0 b1 b2 b3 : Byte) : byteOf (le32 b0 b1 b2 b3) 3 = b3 := (byteOf_le32 b0 b1 b2 b3).2.2.2

/-- The low and high halves of a 64-bit value put together. -/
@[simp] theorem append_halves (v : Word64) : (v.extractLsb' 32 32 ++ v.extractLsb' 0 32 : BitVec 64) = v := by
  apply BitVec.eq_of_getLsbD_eq
  intro i hi
  simp only [BitVec.getLsbD_append, BitVec.getLsbD_extractLsb']
  split
  · simp_all
  · have : i - 32 < 32 := by omega
    simp [this]; congr 1; omega

@[simp] theorem low_half_append (a b : Word32) : (a ++ b : BitVec 64).extractLsb' 0 32 = b := by
  apply BitVec.eq_of_getLsbD_eq
  intro i hi
  simp only [BitVec.getLsbD_extractLsb', BitVec.getLsbD_append, hi, decide_true, Bool.true_and]
  rw [if_pos (by omega)]; congr 1; omega

@[simp] theorem high_half_append (a b : Word32) : (a ++ b : BitVec 64).extractLsb' 32 32 = a := by
  apply BitVec.eq_of_getLsbD_eq
  intro i hi
  simp only [BitVec.getLsbD_extractLsb', BitVec.getLsbD_append, hi, decide_true, Bool.true_and]
  rw [if_neg (by omega)]; congr 1; omega

theorem byteOf_low_half (v : Word64) (k : Nat) (h : k < 4) : byteOf (v.extractLsb' 0 32) k = byteOf v k := by
  apply BitVec.eq_of_getLsbD_eq
  intro i hi
  have : 8 * k + i < 32 := by omega
  simp [byteOf_getLsbD, this]

theorem byteOf_high_half (v : Word64) (k : Nat) (h : k < 4) : byteOf (v.extractLsb' 32 32) k = byteOf v (4 + k) := by
  apply BitVec.eq_of_getLsbD_eq
  intro i hi
  have : 8 * k + i < 32 := by omega
  simp only [byteOf_getLsbD, BitVec.getLsbD_extractLsb', this]
  simp only [decide_true, Bool.true_and]; congr 2; omega

/-- A 64-bit value is its eight bytes. -/
@[simp] theorem le64_bytes (v : Word64) :
    le64 (byteOf v 0) (byteOf v 1) (byteOf v 2) (byteOf v 3) (byteOf v 4) (byteOf v 5) (byteOf v 6) (byteOf v 7) = v := by
  rw [le64, ← byteOf_low_half v 0 (by omega), ← byteOf_low_half v 1 (by omega), ← byteOf_low_half v 2 (by omega),
    ← byteOf_low_half v 3 (by omega), show byteOf v 4 = byteOf v (4 + 0) from rfl,
    show byteOf v 5 = byteOf v (4 + 1) from rfl, show byteOf v 6 = byteOf v (4 + 2) from rfl,
    show byteOf v 7 = byteOf v (4 + 3) from rfl, ← byteOf_high_half v 0 (by omega), ← byteOf_high_half v 1 (by omega),
    ← byteOf_high_half v 2 (by omega), ← byteOf_high_half v 3 (by omega), le32_bytes, le32_bytes, append_halves]

@[simp] theorem bytes16_length (v : BitVec 16) : (bytes16 v).length = 2 := rfl
@[simp] theorem bytes32_length (v : Word32) : (bytes32 v).length = 4 := rfl
@[simp] theorem bytes64_length (v : Word64) : (bytes64 v).length = 8 := rfl

/-- The bits of a one-bit assignment. -/
theorem setBit_getLsbD {w : Nat} (v : BitVec w) (i : Nat) (b : Bool) (j : Nat) (hj : j < w) :
    (setBit v i b).getLsbD j = if j = i then b else v.getLsbD j := by
  have hone : (1#w <<< i).getLsbD j = decide (j = i) := by
    rw [BitVec.getLsbD_shiftLeft, BitVec.getLsbD_one]
    by_cases h : j = i
    · subst h; simp [hj]; omega
    · have : j < i ∨ ¬ j - i = 0 := by omega
      rcases this with h2 | h2 <;> simp [h, h2]
  unfold setBit
  cases b
  · simp only [Bool.false_eq_true, if_false, BitVec.getLsbD_and, BitVec.getLsbD_not, hone, hj]
    by_cases h : j = i <;> simp [h]
  · simp only [if_true, BitVec.getLsbD_or, hone]
    by_cases h : j = i <;> simp [h]

/-- Assigning a bit the value it has changes nothing. -/
theorem setBit_self {w : Nat} (v : BitVec w) (i : Nat) (h : i < w) : setBit v i (v.getLsbD i) = v := by
  apply BitVec.eq_of_getLsbD_eq
  intro j hj
  rw [setBit_getLsbD v i _ j hj]
  split <;> simp_all

end Sys2Proof.Machine
end

