-- ==== Sys2Proof/Laws/Registers.lean ====
section
/-! SUPPORT. The register file as a byte array: what a byte, a word and a doubleword read after a raw write, and the
constant masks of the registers. -/

namespace Sys2Proof.Machine

theorem groupGet_groupSet {n : Nat} (g : Vector Byte n) (i j : Nat) (b : Byte) :
    groupGet (groupSet g i b) j = if j = i ∧ i < n then b else groupGet g j := by
  simp only [groupGet, groupSet, List.getD_eq_getElem?_getD, Vector.toList_mk, List.getElem?_set,
    Vector.length_toList]
  by_cases h : i = j
  · subst h
    by_cases h2 : i < n <;> simp [h2]
  · simp [h, Ne.symm h]

/-- A raw byte write keeps the extents. -/
@[simp] theorem RegFile.win_setByte (r : RegFile) (i : Nat) (b : Byte) : (r.setByte i b).win = r.win := rfl

/-- A raw 4-byte write keeps the extents. -/
@[simp] theorem RegFile.win_write32 (r : RegFile) (off : Nat) (v : Word32) : (r.write32 off v).win = r.win := rfl

/-- A raw 8-byte write keeps the extents. -/
@[simp] theorem RegFile.win_write64 (r : RegFile) (off : Nat) (v : Word64) : (r.write64 off v).win = r.win := rfl

/-- A guest's 4-byte write keeps the extents. -/
@[simp] theorem RegFile.win_semWrite32 (p : Params) (r : RegFile) (off : Nat) (v : Word32) :
    (r.semWrite32 p off v).win = r.win := RegFile.win_write32 _ _ _

/-- A guest's 8-byte write keeps the extents. -/
@[simp] theorem RegFile.win_semWrite64 (p : Params) (r : RegFile) (off : Nat) (v : Word64) :
    (r.semWrite64 p off v).win = r.win := RegFile.win_write64 _ _ _

/-- The reset register file has the extents it was built with. -/
@[simp] theorem win_resetRegs (p : Params) (w : Windows) : (resetRegs p w).win = w := rfl

/-- A byte after a raw byte write. -/
theorem RegFile.byte_setByte (r : RegFile) (i j : Nat) (b : Byte) :
    (r.setByte i b).byte j = if j = i ∧ r.win.holds i then b else r.byte j := by
  have hg := r.win.holdMap.2.1
  have h0 : groupGet (r.setByte i b).g0 j = if j = i ∧ i < r.win.g0End then b else groupGet r.g0 j := by
    show groupGet (if i < r.win.g0End then groupSet r.g0 i b else r.g0) j = _
    by_cases hi : i < r.win.g0End
    · rw [if_pos hi, groupGet_groupSet]
    · rw [if_neg hi, if_neg fun e => hi e.2]
  have h1 : groupGet (r.setByte i b).g1 (j - r.win.g1First) =
      if j - r.win.g1First = i - r.win.g1First ∧ r.win.g1First ≤ i ∧ i - r.win.g1First < r.win.g1End - r.win.g1First
      then b else groupGet r.g1 (j - r.win.g1First) := by
    show groupGet (if r.win.g1First ≤ i then groupSet r.g1 (i - r.win.g1First) b else r.g1) _ = _
    by_cases hi : r.win.g1First ≤ i
    · rw [if_pos hi, groupGet_groupSet]; simp [hi]
    · rw [if_neg hi, if_neg fun e => hi e.2.1]
  show (if j < r.win.g0End then groupGet (r.setByte i b).g0 j
    else if r.win.g1First ≤ j then groupGet (r.setByte i b).g1 (j - r.win.g1First) else 0) = _
  rw [h0, h1]
  unfold RegFile.byte Windows.holds
  by_cases hj : j < r.win.g0End
  · rw [if_pos hj, if_pos hj]
    exact if_congr (by omega) rfl rfl
  · rw [if_neg hj, if_neg hj]
    by_cases hj1 : r.win.g1First ≤ j
    · rw [if_pos hj1, if_pos hj1]
      exact if_congr (by omega) rfl rfl
    · rw [if_neg hj1, if_neg hj1, if_neg (by omega)]

/-- A byte after a raw 4-byte write (R241). -/
theorem RegFile.byte_write32 (r : RegFile) (off j : Nat) (v : Word32) :
    (r.write32 off v).byte j = if off ≤ j ∧ j < off + 4 ∧ r.win.holds j then byteOf v (j - off) else r.byte j := by
  simp only [RegFile.write32, RegFile.byte_setByte, RegFile.win_setByte]
  by_cases h : off ≤ j ∧ j < off + 4
  · obtain ⟨k, hk, rfl⟩ : ∃ k, k < 4 ∧ j = off + k := ⟨j - off, by omega, by omega⟩
    have hc : k = 0 ∨ k = 1 ∨ k = 2 ∨ k = 3 := by omega
    rcases hc with rfl | rfl | rfl | rfl <;>
      simp only [Nat.add_zero, Nat.add_sub_cancel_left, Nat.sub_self] <;> simp
  · rw [if_neg (by omega), if_neg (by omega), if_neg (by omega), if_neg (by omega),
      if_neg (fun e => h ⟨e.1, e.2.1⟩)]

/-- A byte after a raw 8-byte write (R241). -/
theorem RegFile.byte_write64 (r : RegFile) (off j : Nat) (v : Word64) :
    (r.write64 off v).byte j = if off ≤ j ∧ j < off + 8 ∧ r.win.holds j then byteOf v (j - off) else r.byte j := by
  simp only [RegFile.write64, RegFile.byte_write32, RegFile.win_write32]
  by_cases h : off ≤ j ∧ j < off + 8 ∧ r.win.holds j
  · rw [if_pos h]
    by_cases h4 : off + 4 ≤ j
    · rw [if_pos ⟨h4, by omega, h.2.2⟩, byteOf_high_half _ _ (by omega)]; congr 1; omega
    · rw [if_neg (by omega), if_pos ⟨h.1, by omega, h.2.2⟩, byteOf_low_half _ _ (by omega)]
  · rw [if_neg h, if_neg (by intro hh; exact h ⟨by omega, by omega, hh.2.2⟩),
      if_neg (by intro hh; exact h ⟨by omega, by omega, hh.2.2⟩)]

theorem vector_toList_ext {n : Nat} (a b : Vector Byte n) (h : ∀ i, i < n → groupGet a i = groupGet b i) : a = b := by
  apply Vector.ext
  intro i hi
  have := h i hi
  simpa [groupGet, List.getD_eq_getElem?_getD, hi] using this

/-- Register files with the same bytes are equal (R30: the byte arrays are the only storage). -/
theorem RegFile.ext_byte {r r' : RegFile} (hw : r.win = r'.win)
    (h : ∀ off, r.win.holds off → r.byte off = r'.byte off) : r = r' := by
  obtain ⟨w, a, b⟩ := r
  obtain ⟨w', a', b'⟩ := r'
  obtain rfl : w = w' := hw
  have hg := w.holdMap.2.1
  congr 1
  · apply vector_toList_ext
    intro i hi
    have := h i (Or.inl hi)
    simpa [RegFile.byte, hi] using this
  · apply vector_toList_ext
    intro i hi
    have h1 : ¬ (w.g1First + i < w.g0End) := by omega
    have hi : i < w.g1End - w.g1First := hi
    have := h (w.g1First + i) (Or.inr ⟨Nat.le_add_right _ _, by show w.g1First + i < w.g1End; omega⟩)
    simpa [RegFile.byte, h1] using this

/-- A 4-byte read of the bytes just written. -/
theorem RegFile.read32_write32 (r : RegFile) (off : Nat) (v : Word32)
    (h : r.win.holds off ∧ r.win.holds (off + 1) ∧ r.win.holds (off + 2) ∧ r.win.holds (off + 3)) :
    (r.write32 off v).read32 off = v := by
  obtain ⟨h0, h1, h2, h3⟩ := h
  simp only [RegFile.read32, RegFile.byte_write32]
  rw [if_pos ⟨by omega, by omega, h0⟩, if_pos ⟨by omega, by omega, h1⟩, if_pos ⟨by omega, by omega, h2⟩,
    if_pos ⟨by omega, by omega, h3⟩]
  simp

/-- A 4-byte read away from a 4-byte write. -/
theorem RegFile.read32_write32_ne (r : RegFile) (off o : Nat) (v : Word32) (h : off + 4 ≤ o ∨ o + 4 ≤ off) :
    (r.write32 off v).read32 o = r.read32 o := by
  simp only [RegFile.read32, RegFile.byte_write32]
  rw [if_neg (by omega), if_neg (by omega), if_neg (by omega), if_neg (by omega)]

/-- A 4-byte read away from an 8-byte write. -/
theorem RegFile.read32_write64_ne (r : RegFile) (off o : Nat) (v : Word64) (h : off + 8 ≤ o ∨ o + 4 ≤ off) :
    (r.write64 off v).read32 o = r.read32 o := by
  rw [RegFile.write64, RegFile.read32_write32_ne _ _ _ _ (by omega), RegFile.read32_write32_ne _ _ _ _ (by omega)]

/-- An 8-byte read away from a 4-byte write. -/
theorem RegFile.read64_write32_ne (r : RegFile) (off o : Nat) (v : Word32) (h : off + 4 ≤ o ∨ o + 8 ≤ off) :
    (r.write32 off v).read64 o = r.read64 o := by
  rw [RegFile.read64, RegFile.read64, RegFile.read32_write32_ne _ _ _ _ (by omega),
    RegFile.read32_write32_ne _ _ _ _ (by omega)]

/-- An 8-byte read away from an 8-byte write. -/
theorem RegFile.read64_write64_ne (r : RegFile) (off o : Nat) (v : Word64) (h : off + 8 ≤ o ∨ o + 8 ≤ off) :
    (r.write64 off v).read64 o = r.read64 o := by
  rw [RegFile.read64, RegFile.read64, RegFile.read32_write64_ne _ _ _ _ (by omega),
    RegFile.read32_write64_ne _ _ _ _ (by omega)]

/-- Four bytes of a span that one group covers are held. -/
theorem holds_of_holdsSpan {w : Windows} {off n i : Nat} (h : w.holdsSpan off n) (hi : i + 4 ≤ n) :
    w.holds (off + i) ∧ w.holds (off + i + 1) ∧ w.holds (off + i + 2) ∧ w.holds (off + i + 3) := by
  unfold Windows.holdsSpan at h; unfold Windows.holds; omega

/-- The low word of an 8-byte write. -/
theorem RegFile.read32_write64_low (r : RegFile) (off : Nat) (v : Word64) (h : r.win.holdsSpan off 8) :
    (r.write64 off v).read32 off = v.extractLsb' 0 32 := by
  rw [RegFile.write64, RegFile.read32_write32_ne _ _ _ _ (by omega),
    RegFile.read32_write32 _ _ _ (by simpa using holds_of_holdsSpan (i := 0) h (by omega))]

/-- The high word of an 8-byte write. -/
theorem RegFile.read32_write64_high (r : RegFile) (off : Nat) (v : Word64) (h : r.win.holdsSpan off 8) :
    (r.write64 off v).read32 (off + 4) = v.extractLsb' 32 32 := by
  rw [RegFile.write64, RegFile.read32_write32 _ _ _
    (by rw [RegFile.win_write32]; exact holds_of_holdsSpan (i := 4) h (by omega))]

/-- An 8-byte read of the bytes just written. -/
theorem RegFile.read64_write64 (r : RegFile) (off : Nat) (v : Word64) (h : r.win.holdsSpan off 8) :
    (r.write64 off v).read64 off = v := by
  rw [RegFile.read64, RegFile.read32_write64_high _ _ _ h, RegFile.read32_write64_low _ _ _ h, append_halves]

theorem RegFile.byte_eq_byteOf_read32 (r : RegFile) (off k : Nat) (h : k < 4) :
    byteOf (r.read32 off) k = r.byte (off + k) := by
  have hc : k = 0 ∨ k = 1 ∨ k = 2 ∨ k = 3 := by omega
  rcases hc with rfl | rfl | rfl | rfl <;> simp [RegFile.read32]

/-- Writing back what is there changes nothing. -/
theorem RegFile.write32_self (r : RegFile) (off : Nat) : r.write32 off (r.read32 off) = r := by
  refine RegFile.ext_byte (RegFile.win_write32 _ _ _) fun j _ => ?_
  rw [RegFile.byte_write32]
  split
  · next h => rw [RegFile.byte_eq_byteOf_read32 _ _ _ (by omega)]; congr 1; omega
  · rfl

/-- Writing back what is there changes nothing. -/
theorem RegFile.write64_self (r : RegFile) (off : Nat) : r.write64 off (r.read64 off) = r := by
  simp only [RegFile.write64, RegFile.read64, low_half_append, high_half_append, RegFile.write32_self]

/-! ### The masks of the registers -/

theorem le32_bytes_low (v : Word64) : le32 (byteOf v 0) (byteOf v 1) (byteOf v 2) (byteOf v 3) = v.extractLsb' 0 32 := by
  rw [← byteOf_low_half v 0 (by omega), ← byteOf_low_half v 1 (by omega), ← byteOf_low_half v 2 (by omega),
    ← byteOf_low_half v 3 (by omega), le32_bytes]

theorem le32_bytes_high (v : Word64) : le32 (byteOf v 4) (byteOf v 5) (byteOf v 6) (byteOf v 7) = v.extractLsb' 32 32 := by
  have h := le32_bytes (v.extractLsb' 32 32)
  rwa [byteOf_high_half v 0 (by omega), byteOf_high_half v 1 (by omega), byteOf_high_half v 2 (by omega),
    byteOf_high_half v 3 (by omega)] at h

/-- The RW mask of a 64-bit register of the map is its row's (R32). -/
theorem rwMask64_of_bytes (p : Params) (off : Nat) (m : Word64)
    (h : ∀ k, k < 8 → rwByte p (off + k) = byteOf m k) : rwMask64 p off = m := by
  rw [rwMask64, rwMask32, rwMask32]
  have h0 := h 0 (by omega); have h1 := h 1 (by omega); have h2 := h 2 (by omega); have h3 := h 3 (by omega)
  have h4 := h 4 (by omega); have h5 := h 5 (by omega); have h6 := h 6 (by omega); have h7 := h 7 (by omega)
  simp only [Nat.add_zero, Nat.add_assoc, Nat.reduceAdd] at *
  rw [h0, h1, h2, h3, h4, h5, h6, h7, le32_bytes_low, le32_bytes_high, append_halves]

/-- The RW mask of a 32-bit register of the map is its row's (R32). -/
theorem rwMask32_of_bytes (p : Params) (off : Nat) (m : Word32)
    (h : ∀ k, k < 4 → rwByte p (off + k) = byteOf m k) : rwMask32 p off = m := by
  rw [rwMask32]
  have h0 := h 0 (by omega); have h1 := h 1 (by omega); have h2 := h 2 (by omega); have h3 := h 3 (by omega)
  simp only [Nat.add_zero] at h0
  rw [h0, h1, h2, h3, le32_bytes]

theorem rwMask64_rtaddr (p : Params) : rwMask64 p 0x020 = hawMask p ||| 0xC00 := by
  apply rwMask64_of_bytes; intro k hk; interval_cases k <;> rfl
theorem rwMask64_ccmd (p : Params) : rwMask64 p 0x028 = 0xE0000003FFFFFFFF := by
  apply rwMask64_of_bytes; intro k hk; interval_cases k <;> rfl
theorem rwMask64_iqt (p : Params) : rwMask64 p 0x088 = 0x7FFF0 := by
  apply rwMask64_of_bytes; intro k hk; interval_cases k <;> rfl
theorem rwMask64_iqa (p : Params) : rwMask64 p 0x090 = hawMask p ||| 0x7 := by
  apply rwMask64_of_bytes; intro k hk; interval_cases k <;> rfl
theorem rwMask64_irta (p : Params) : rwMask64 p 0x0B8 = hawMask p ||| (if p.eim then 0x800 else 0) ||| 0xF := by
  apply rwMask64_of_bytes; intro k hk; interval_cases k <;> rfl
theorem rwMask64_iva (p : Params) : rwMask64 p 0xE50 = 0xFFFFFFFFFFFFF07F := by
  apply rwMask64_of_bytes; intro k hk; interval_cases k <;> rfl
theorem rwMask64_iotlb (p : Params) : rwMask64 p 0xE58 = 0xB003FFFF00000000 := by
  apply rwMask64_of_bytes; intro k hk; interval_cases k <;> rfl
theorem rwMask64_frcdHi (p : Params) : rwMask64 p 0xE78 = 0 := by
  apply rwMask64_of_bytes; intro k hk; interval_cases k <;> rfl
theorem rwMask64_gcmd (p : Params) : rwMask64 p 0x018 = 0 := by
  apply rwMask64_of_bytes; intro k hk; interval_cases k <;> rfl
theorem rwMask32_gcmd (p : Params) : rwMask32 p 0x018 = 0 := by
  apply rwMask32_of_bytes; intro k hk; interval_cases k <;> rfl
theorem rwMask32_fsts (p : Params) : rwMask32 p 0x034 = 0 := by
  apply rwMask32_of_bytes; intro k hk; interval_cases k <;> rfl
theorem rwMask32_fectl (p : Params) : rwMask32 p 0x038 = 0x80000000 := by
  apply rwMask32_of_bytes; intro k hk; interval_cases k <;> rfl
theorem rwMask32_ics (p : Params) : rwMask32 p 0x09C = 0 := by
  apply rwMask32_of_bytes; intro k hk; interval_cases k <;> rfl
theorem rwMask32_iectl (p : Params) : rwMask32 p 0x0A0 = 0x80000000 := by
  apply rwMask32_of_bytes; intro k hk; interval_cases k <;> rfl
theorem rw1cMask32_gcmd : rw1cMask32 0x018 = 0 := rfl
theorem rw1cMask32_fsts : rw1cMask32 0x034 = 0x7D := rfl
theorem rw1cMask32_fectl : rw1cMask32 0x038 = 0 := rfl
theorem rw1cMask32_ics : rw1cMask32 0x09C = 1 := rfl
theorem rw1cMask32_iectl : rw1cMask32 0x0A0 = 0 := rfl
theorem rw1cMask64_gcmd : rw1cMask64 0x018 = 0 := rfl
theorem rw1cMask64_rtaddr : rw1cMask64 0x020 = 0 := rfl
theorem rw1cMask64_ccmd : rw1cMask64 0x028 = 0 := rfl
theorem rw1cMask64_iqt : rw1cMask64 0x088 = 0 := rfl
theorem rw1cMask64_iqa : rw1cMask64 0x090 = 0 := rfl
theorem rw1cMask64_irta : rw1cMask64 0x0B8 = 0 := rfl
theorem rw1cMask64_iva : rw1cMask64 0xE50 = 0 := rfl
theorem rw1cMask64_iotlb : rw1cMask64 0xE58 = 0 := rfl
theorem rw1cMask64_frcdHi : rw1cMask64 0xE78 = 0x8000000000000000 := rfl

/-- No masked register begins below RTADDR: VER, CAP, ECAP, GCMD and GSTS have masks 0 (R32). -/
theorem rwByte_below (p : Params) (off : Nat) (h : off < 0x020) : rwByte p off = 0 := by
  interval_cases off <;> rfl
theorem rw1cByte_below (off : Nat) (h : off < 0x020) : rw1cByte off = 0 := by
  interval_cases off <;> rfl

/-- With both masks 0 a masked write commits the value that is there (R31: read-only). -/
@[simp] theorem commit_zero {w : Nat} (prior v : BitVec w) : commit 0 0 prior v = prior := by
  simp [commit]

/-- A bit of the masked value (R242). -/
theorem commit_getLsbD {w : Nat} (rw rw1c prior v : BitVec w) (i : Nat) (h : i < w) :
    (commit rw rw1c prior v).getLsbD i
      = (((prior.getLsbD i && !rw.getLsbD i) || (v.getLsbD i && rw.getLsbD i)) && !(v.getLsbD i && rw1c.getLsbD i)) := by
  simp [commit, h]

/-- The masked value, byte by byte (R242: "each byte's result depends only on that byte's old value, written value and
masks"). -/
theorem byteOf_commit {w : Nat} (rw rw1c prior v : BitVec w) (k : Nat) (h : 8 * k + 8 ≤ w) :
    byteOf (commit rw rw1c prior v) k = commit (byteOf rw k) (byteOf rw1c k) (byteOf prior k) (byteOf v k) := by
  apply BitVec.eq_of_getLsbD_eq
  intro i hi
  rw [byteOf_getLsbD, commit_getLsbD _ _ _ _ _ (by omega), commit_getLsbD _ _ _ _ _ hi]
  simp only [byteOf_getLsbD, show decide (i < 8) = true by simpa using hi, Bool.true_and]

theorem byteOf_rwMask32 (p : Params) (off k : Nat) (h : k < 4) : byteOf (rwMask32 p off) k = rwByte p (off + k) := by
  have hc : k = 0 ∨ k = 1 ∨ k = 2 ∨ k = 3 := by omega
  rcases hc with rfl | rfl | rfl | rfl <;> simp [rwMask32]

theorem byteOf_rw1cMask32 (off k : Nat) (h : k < 4) : byteOf (rw1cMask32 off) k = rw1cByte (off + k) := by
  have hc : k = 0 ∨ k = 1 ∨ k = 2 ∨ k = 3 := by omega
  rcases hc with rfl | rfl | rfl | rfl <;> simp [rw1cMask32]

/-- A byte after a guest's 4-byte write (R242). -/
theorem RegFile.byte_semWrite32 (p : Params) (r : RegFile) (off j : Nat) (v : Word32) :
    (r.semWrite32 p off v).byte j
      = if off ≤ j ∧ j < off + 4 ∧ r.win.holds j
        then commit (rwByte p j) (rw1cByte j) (r.byte j) (byteOf v (j - off)) else r.byte j := by
  rw [RegFile.semWrite32, RegFile.byte_write32]
  split
  · next h =>
    rw [byteOf_commit _ _ _ _ _ (by omega), byteOf_rwMask32 _ _ _ (by omega), byteOf_rw1cMask32 _ _ (by omega),
      RegFile.byte_eq_byteOf_read32 _ _ _ (by omega), show off + (j - off) = j by omega]
  · rfl

theorem commit_low (a b c d e f g h : Word32) :
    (commit (a ++ b : BitVec 64) (c ++ d) (e ++ f) (g ++ h)).extractLsb' 0 32 = commit b d f h := by
  apply BitVec.eq_of_getLsbD_eq
  intro i hi
  rw [BitVec.getLsbD_extractLsb', commit_getLsbD _ _ _ _ _ (by omega), commit_getLsbD _ _ _ _ _ hi]
  simp only [BitVec.getLsbD_append, hi, Nat.zero_add, if_true, decide_true, Bool.true_and]

theorem commit_high (a b c d e f g h : Word32) :
    (commit (a ++ b : BitVec 64) (c ++ d) (e ++ f) (g ++ h)).extractLsb' 32 32 = commit a c e g := by
  apply BitVec.eq_of_getLsbD_eq
  intro i hi
  rw [BitVec.getLsbD_extractLsb', commit_getLsbD _ _ _ _ _ (by omega), commit_getLsbD _ _ _ _ _ hi]
  simp only [BitVec.getLsbD_append, hi, Nat.add_sub_cancel_left, decide_true, Bool.true_and,
    show ¬ (32 + i < 32) by omega, if_false]

end Sys2Proof.Machine
end

