-- ==== Sys2Proof/Laws/State.lean ====
section
/-! SUPPORT. What each update of State does to each field: one lemma per field per update, true by rfl. -/

namespace Sys2Proof.Machine

@[simp] theorem State.withRegs_params (s : State) (x : RegFile) : (s.withRegs x).params = s.params := rfl
@[simp] theorem State.withRegs_regs (s : State) (x : RegFile) : (s.withRegs x).regs = x := rfl
@[simp] theorem State.withRegs_activeRtaddr (s : State) (x : RegFile) : (s.withRegs x).activeRtaddr = s.activeRtaddr := rfl
@[simp] theorem State.withRegs_activeIrta (s : State) (x : RegFile) : (s.withRegs x).activeIrta = s.activeIrta := rfl
@[simp] theorem State.withRegs_diag (s : State) (x : RegFile) : (s.withRegs x).diag = s.diag := rfl
@[simp] theorem State.withRegs_wakePending (s : State) (x : RegFile) : (s.withRegs x).wakePending = s.wakePending := rfl
@[simp] theorem State.withRegs_shutdown (s : State) (x : RegFile) : (s.withRegs x).shutdown = s.shutdown := rfl
@[simp] theorem State.withRegs_wphase (s : State) (x : RegFile) : (s.withRegs x).wphase = s.wphase := rfl
@[simp] theorem State.withRegs_stats (s : State) (x : RegFile) : (s.withRegs x).stats = s.stats := rfl
@[simp] theorem State.withRegs_inflight (s : State) (x : RegFile) : (s.withRegs x).inflight = s.inflight := rfl
@[simp] theorem State.withRegs_mem (s : State) (x : RegFile) : (s.withRegs x).mem = s.mem := rfl
@[simp] theorem State.withRegs_oracle (s : State) (x : RegFile) : (s.withRegs x).oracle = s.oracle := rfl
@[simp] theorem State.withRegs_agenda (s : State) (x : RegFile) : (s.withRegs x).agenda = s.agenda := rfl
@[simp] theorem State.withRegs_outputs (s : State) (x : RegFile) : (s.withRegs x).outputs = s.outputs := rfl
@[simp] theorem State.withRegs_replies (s : State) (x : RegFile) : (s.withRegs x).replies = s.replies := rfl

@[simp] theorem State.withActiveRtaddr_params (s : State) (x : Word64) : (s.withActiveRtaddr x).params = s.params := rfl
@[simp] theorem State.withActiveRtaddr_regs (s : State) (x : Word64) : (s.withActiveRtaddr x).regs = s.regs := rfl
@[simp] theorem State.withActiveRtaddr_activeRtaddr (s : State) (x : Word64) : (s.withActiveRtaddr x).activeRtaddr = x := rfl
@[simp] theorem State.withActiveRtaddr_activeIrta (s : State) (x : Word64) : (s.withActiveRtaddr x).activeIrta = s.activeIrta := rfl
@[simp] theorem State.withActiveRtaddr_diag (s : State) (x : Word64) : (s.withActiveRtaddr x).diag = s.diag := rfl
@[simp] theorem State.withActiveRtaddr_wakePending (s : State) (x : Word64) : (s.withActiveRtaddr x).wakePending = s.wakePending := rfl
@[simp] theorem State.withActiveRtaddr_shutdown (s : State) (x : Word64) : (s.withActiveRtaddr x).shutdown = s.shutdown := rfl
@[simp] theorem State.withActiveRtaddr_wphase (s : State) (x : Word64) : (s.withActiveRtaddr x).wphase = s.wphase := rfl
@[simp] theorem State.withActiveRtaddr_stats (s : State) (x : Word64) : (s.withActiveRtaddr x).stats = s.stats := rfl
@[simp] theorem State.withActiveRtaddr_inflight (s : State) (x : Word64) : (s.withActiveRtaddr x).inflight = s.inflight := rfl
@[simp] theorem State.withActiveRtaddr_mem (s : State) (x : Word64) : (s.withActiveRtaddr x).mem = s.mem := rfl
@[simp] theorem State.withActiveRtaddr_oracle (s : State) (x : Word64) : (s.withActiveRtaddr x).oracle = s.oracle := rfl
@[simp] theorem State.withActiveRtaddr_agenda (s : State) (x : Word64) : (s.withActiveRtaddr x).agenda = s.agenda := rfl
@[simp] theorem State.withActiveRtaddr_outputs (s : State) (x : Word64) : (s.withActiveRtaddr x).outputs = s.outputs := rfl
@[simp] theorem State.withActiveRtaddr_replies (s : State) (x : Word64) : (s.withActiveRtaddr x).replies = s.replies := rfl

@[simp] theorem State.withActiveIrta_params (s : State) (x : Word64) : (s.withActiveIrta x).params = s.params := rfl
@[simp] theorem State.withActiveIrta_regs (s : State) (x : Word64) : (s.withActiveIrta x).regs = s.regs := rfl
@[simp] theorem State.withActiveIrta_activeRtaddr (s : State) (x : Word64) : (s.withActiveIrta x).activeRtaddr = s.activeRtaddr := rfl
@[simp] theorem State.withActiveIrta_activeIrta (s : State) (x : Word64) : (s.withActiveIrta x).activeIrta = x := rfl
@[simp] theorem State.withActiveIrta_diag (s : State) (x : Word64) : (s.withActiveIrta x).diag = s.diag := rfl
@[simp] theorem State.withActiveIrta_wakePending (s : State) (x : Word64) : (s.withActiveIrta x).wakePending = s.wakePending := rfl
@[simp] theorem State.withActiveIrta_shutdown (s : State) (x : Word64) : (s.withActiveIrta x).shutdown = s.shutdown := rfl
@[simp] theorem State.withActiveIrta_wphase (s : State) (x : Word64) : (s.withActiveIrta x).wphase = s.wphase := rfl
@[simp] theorem State.withActiveIrta_stats (s : State) (x : Word64) : (s.withActiveIrta x).stats = s.stats := rfl
@[simp] theorem State.withActiveIrta_inflight (s : State) (x : Word64) : (s.withActiveIrta x).inflight = s.inflight := rfl
@[simp] theorem State.withActiveIrta_mem (s : State) (x : Word64) : (s.withActiveIrta x).mem = s.mem := rfl
@[simp] theorem State.withActiveIrta_oracle (s : State) (x : Word64) : (s.withActiveIrta x).oracle = s.oracle := rfl
@[simp] theorem State.withActiveIrta_agenda (s : State) (x : Word64) : (s.withActiveIrta x).agenda = s.agenda := rfl
@[simp] theorem State.withActiveIrta_outputs (s : State) (x : Word64) : (s.withActiveIrta x).outputs = s.outputs := rfl
@[simp] theorem State.withActiveIrta_replies (s : State) (x : Word64) : (s.withActiveIrta x).replies = s.replies := rfl

@[simp] theorem State.withDiag_params (s : State) (x : Diag) : (s.withDiag x).params = s.params := rfl
@[simp] theorem State.withDiag_regs (s : State) (x : Diag) : (s.withDiag x).regs = s.regs := rfl
@[simp] theorem State.withDiag_activeRtaddr (s : State) (x : Diag) : (s.withDiag x).activeRtaddr = s.activeRtaddr := rfl
@[simp] theorem State.withDiag_activeIrta (s : State) (x : Diag) : (s.withDiag x).activeIrta = s.activeIrta := rfl
@[simp] theorem State.withDiag_diag (s : State) (x : Diag) : (s.withDiag x).diag = x := rfl
@[simp] theorem State.withDiag_wakePending (s : State) (x : Diag) : (s.withDiag x).wakePending = s.wakePending := rfl
@[simp] theorem State.withDiag_shutdown (s : State) (x : Diag) : (s.withDiag x).shutdown = s.shutdown := rfl
@[simp] theorem State.withDiag_wphase (s : State) (x : Diag) : (s.withDiag x).wphase = s.wphase := rfl
@[simp] theorem State.withDiag_stats (s : State) (x : Diag) : (s.withDiag x).stats = s.stats := rfl
@[simp] theorem State.withDiag_inflight (s : State) (x : Diag) : (s.withDiag x).inflight = s.inflight := rfl
@[simp] theorem State.withDiag_mem (s : State) (x : Diag) : (s.withDiag x).mem = s.mem := rfl
@[simp] theorem State.withDiag_oracle (s : State) (x : Diag) : (s.withDiag x).oracle = s.oracle := rfl
@[simp] theorem State.withDiag_agenda (s : State) (x : Diag) : (s.withDiag x).agenda = s.agenda := rfl
@[simp] theorem State.withDiag_outputs (s : State) (x : Diag) : (s.withDiag x).outputs = s.outputs := rfl
@[simp] theorem State.withDiag_replies (s : State) (x : Diag) : (s.withDiag x).replies = s.replies := rfl

@[simp] theorem State.withWake_params (s : State) (x : Bool) : (s.withWake x).params = s.params := rfl
@[simp] theorem State.withWake_regs (s : State) (x : Bool) : (s.withWake x).regs = s.regs := rfl
@[simp] theorem State.withWake_activeRtaddr (s : State) (x : Bool) : (s.withWake x).activeRtaddr = s.activeRtaddr := rfl
@[simp] theorem State.withWake_activeIrta (s : State) (x : Bool) : (s.withWake x).activeIrta = s.activeIrta := rfl
@[simp] theorem State.withWake_diag (s : State) (x : Bool) : (s.withWake x).diag = s.diag := rfl
@[simp] theorem State.withWake_wakePending (s : State) (x : Bool) : (s.withWake x).wakePending = x := rfl
@[simp] theorem State.withWake_shutdown (s : State) (x : Bool) : (s.withWake x).shutdown = s.shutdown := rfl
@[simp] theorem State.withWake_wphase (s : State) (x : Bool) : (s.withWake x).wphase = s.wphase := rfl
@[simp] theorem State.withWake_stats (s : State) (x : Bool) : (s.withWake x).stats = s.stats := rfl
@[simp] theorem State.withWake_inflight (s : State) (x : Bool) : (s.withWake x).inflight = s.inflight := rfl
@[simp] theorem State.withWake_mem (s : State) (x : Bool) : (s.withWake x).mem = s.mem := rfl
@[simp] theorem State.withWake_oracle (s : State) (x : Bool) : (s.withWake x).oracle = s.oracle := rfl
@[simp] theorem State.withWake_agenda (s : State) (x : Bool) : (s.withWake x).agenda = s.agenda := rfl
@[simp] theorem State.withWake_outputs (s : State) (x : Bool) : (s.withWake x).outputs = s.outputs := rfl
@[simp] theorem State.withWake_replies (s : State) (x : Bool) : (s.withWake x).replies = s.replies := rfl

@[simp] theorem State.withShutdown_params (s : State) (x : Bool) : (s.withShutdown x).params = s.params := rfl
@[simp] theorem State.withShutdown_regs (s : State) (x : Bool) : (s.withShutdown x).regs = s.regs := rfl
@[simp] theorem State.withShutdown_activeRtaddr (s : State) (x : Bool) : (s.withShutdown x).activeRtaddr = s.activeRtaddr := rfl
@[simp] theorem State.withShutdown_activeIrta (s : State) (x : Bool) : (s.withShutdown x).activeIrta = s.activeIrta := rfl
@[simp] theorem State.withShutdown_diag (s : State) (x : Bool) : (s.withShutdown x).diag = s.diag := rfl
@[simp] theorem State.withShutdown_wakePending (s : State) (x : Bool) : (s.withShutdown x).wakePending = s.wakePending := rfl
@[simp] theorem State.withShutdown_shutdown (s : State) (x : Bool) : (s.withShutdown x).shutdown = x := rfl
@[simp] theorem State.withShutdown_wphase (s : State) (x : Bool) : (s.withShutdown x).wphase = s.wphase := rfl
@[simp] theorem State.withShutdown_stats (s : State) (x : Bool) : (s.withShutdown x).stats = s.stats := rfl
@[simp] theorem State.withShutdown_inflight (s : State) (x : Bool) : (s.withShutdown x).inflight = s.inflight := rfl
@[simp] theorem State.withShutdown_mem (s : State) (x : Bool) : (s.withShutdown x).mem = s.mem := rfl
@[simp] theorem State.withShutdown_oracle (s : State) (x : Bool) : (s.withShutdown x).oracle = s.oracle := rfl
@[simp] theorem State.withShutdown_agenda (s : State) (x : Bool) : (s.withShutdown x).agenda = s.agenda := rfl
@[simp] theorem State.withShutdown_outputs (s : State) (x : Bool) : (s.withShutdown x).outputs = s.outputs := rfl
@[simp] theorem State.withShutdown_replies (s : State) (x : Bool) : (s.withShutdown x).replies = s.replies := rfl

@[simp] theorem State.withPhase_params (s : State) (x : WPhase) : (s.withPhase x).params = s.params := rfl
@[simp] theorem State.withPhase_regs (s : State) (x : WPhase) : (s.withPhase x).regs = s.regs := rfl
@[simp] theorem State.withPhase_activeRtaddr (s : State) (x : WPhase) : (s.withPhase x).activeRtaddr = s.activeRtaddr := rfl
@[simp] theorem State.withPhase_activeIrta (s : State) (x : WPhase) : (s.withPhase x).activeIrta = s.activeIrta := rfl
@[simp] theorem State.withPhase_diag (s : State) (x : WPhase) : (s.withPhase x).diag = s.diag := rfl
@[simp] theorem State.withPhase_wakePending (s : State) (x : WPhase) : (s.withPhase x).wakePending = s.wakePending := rfl
@[simp] theorem State.withPhase_shutdown (s : State) (x : WPhase) : (s.withPhase x).shutdown = s.shutdown := rfl
@[simp] theorem State.withPhase_wphase (s : State) (x : WPhase) : (s.withPhase x).wphase = x := rfl
@[simp] theorem State.withPhase_stats (s : State) (x : WPhase) : (s.withPhase x).stats = s.stats := rfl
@[simp] theorem State.withPhase_inflight (s : State) (x : WPhase) : (s.withPhase x).inflight = s.inflight := rfl
@[simp] theorem State.withPhase_mem (s : State) (x : WPhase) : (s.withPhase x).mem = s.mem := rfl
@[simp] theorem State.withPhase_oracle (s : State) (x : WPhase) : (s.withPhase x).oracle = s.oracle := rfl
@[simp] theorem State.withPhase_agenda (s : State) (x : WPhase) : (s.withPhase x).agenda = s.agenda := rfl
@[simp] theorem State.withPhase_outputs (s : State) (x : WPhase) : (s.withPhase x).outputs = s.outputs := rfl
@[simp] theorem State.withPhase_replies (s : State) (x : WPhase) : (s.withPhase x).replies = s.replies := rfl

@[simp] theorem State.withStats_params (s : State) (x : Stats) : (s.withStats x).params = s.params := rfl
@[simp] theorem State.withStats_regs (s : State) (x : Stats) : (s.withStats x).regs = s.regs := rfl
@[simp] theorem State.withStats_activeRtaddr (s : State) (x : Stats) : (s.withStats x).activeRtaddr = s.activeRtaddr := rfl
@[simp] theorem State.withStats_activeIrta (s : State) (x : Stats) : (s.withStats x).activeIrta = s.activeIrta := rfl
@[simp] theorem State.withStats_diag (s : State) (x : Stats) : (s.withStats x).diag = s.diag := rfl
@[simp] theorem State.withStats_wakePending (s : State) (x : Stats) : (s.withStats x).wakePending = s.wakePending := rfl
@[simp] theorem State.withStats_shutdown (s : State) (x : Stats) : (s.withStats x).shutdown = s.shutdown := rfl
@[simp] theorem State.withStats_wphase (s : State) (x : Stats) : (s.withStats x).wphase = s.wphase := rfl
@[simp] theorem State.withStats_stats (s : State) (x : Stats) : (s.withStats x).stats = x := rfl
@[simp] theorem State.withStats_inflight (s : State) (x : Stats) : (s.withStats x).inflight = s.inflight := rfl
@[simp] theorem State.withStats_mem (s : State) (x : Stats) : (s.withStats x).mem = s.mem := rfl
@[simp] theorem State.withStats_oracle (s : State) (x : Stats) : (s.withStats x).oracle = s.oracle := rfl
@[simp] theorem State.withStats_agenda (s : State) (x : Stats) : (s.withStats x).agenda = s.agenda := rfl
@[simp] theorem State.withStats_outputs (s : State) (x : Stats) : (s.withStats x).outputs = s.outputs := rfl
@[simp] theorem State.withStats_replies (s : State) (x : Stats) : (s.withStats x).replies = s.replies := rfl

@[simp] theorem State.withInflight_params (s : State) (x : List InFlight) : (s.withInflight x).params = s.params := rfl
@[simp] theorem State.withInflight_regs (s : State) (x : List InFlight) : (s.withInflight x).regs = s.regs := rfl
@[simp] theorem State.withInflight_activeRtaddr (s : State) (x : List InFlight) : (s.withInflight x).activeRtaddr = s.activeRtaddr := rfl
@[simp] theorem State.withInflight_activeIrta (s : State) (x : List InFlight) : (s.withInflight x).activeIrta = s.activeIrta := rfl
@[simp] theorem State.withInflight_diag (s : State) (x : List InFlight) : (s.withInflight x).diag = s.diag := rfl
@[simp] theorem State.withInflight_wakePending (s : State) (x : List InFlight) : (s.withInflight x).wakePending = s.wakePending := rfl
@[simp] theorem State.withInflight_shutdown (s : State) (x : List InFlight) : (s.withInflight x).shutdown = s.shutdown := rfl
@[simp] theorem State.withInflight_wphase (s : State) (x : List InFlight) : (s.withInflight x).wphase = s.wphase := rfl
@[simp] theorem State.withInflight_stats (s : State) (x : List InFlight) : (s.withInflight x).stats = s.stats := rfl
@[simp] theorem State.withInflight_inflight (s : State) (x : List InFlight) : (s.withInflight x).inflight = x := rfl
@[simp] theorem State.withInflight_mem (s : State) (x : List InFlight) : (s.withInflight x).mem = s.mem := rfl
@[simp] theorem State.withInflight_oracle (s : State) (x : List InFlight) : (s.withInflight x).oracle = s.oracle := rfl
@[simp] theorem State.withInflight_agenda (s : State) (x : List InFlight) : (s.withInflight x).agenda = s.agenda := rfl
@[simp] theorem State.withInflight_outputs (s : State) (x : List InFlight) : (s.withInflight x).outputs = s.outputs := rfl
@[simp] theorem State.withInflight_replies (s : State) (x : List InFlight) : (s.withInflight x).replies = s.replies := rfl

@[simp] theorem State.withMem_params (s : State) (x : Memory) : (s.withMem x).params = s.params := rfl
@[simp] theorem State.withMem_regs (s : State) (x : Memory) : (s.withMem x).regs = s.regs := rfl
@[simp] theorem State.withMem_activeRtaddr (s : State) (x : Memory) : (s.withMem x).activeRtaddr = s.activeRtaddr := rfl
@[simp] theorem State.withMem_activeIrta (s : State) (x : Memory) : (s.withMem x).activeIrta = s.activeIrta := rfl
@[simp] theorem State.withMem_diag (s : State) (x : Memory) : (s.withMem x).diag = s.diag := rfl
@[simp] theorem State.withMem_wakePending (s : State) (x : Memory) : (s.withMem x).wakePending = s.wakePending := rfl
@[simp] theorem State.withMem_shutdown (s : State) (x : Memory) : (s.withMem x).shutdown = s.shutdown := rfl
@[simp] theorem State.withMem_wphase (s : State) (x : Memory) : (s.withMem x).wphase = s.wphase := rfl
@[simp] theorem State.withMem_stats (s : State) (x : Memory) : (s.withMem x).stats = s.stats := rfl
@[simp] theorem State.withMem_inflight (s : State) (x : Memory) : (s.withMem x).inflight = s.inflight := rfl
@[simp] theorem State.withMem_mem (s : State) (x : Memory) : (s.withMem x).mem = x := rfl
@[simp] theorem State.withMem_oracle (s : State) (x : Memory) : (s.withMem x).oracle = s.oracle := rfl
@[simp] theorem State.withMem_agenda (s : State) (x : Memory) : (s.withMem x).agenda = s.agenda := rfl
@[simp] theorem State.withMem_outputs (s : State) (x : Memory) : (s.withMem x).outputs = s.outputs := rfl
@[simp] theorem State.withMem_replies (s : State) (x : Memory) : (s.withMem x).replies = s.replies := rfl

@[simp] theorem State.withOracle_params (s : State) (x : List MemAnswer) : (s.withOracle x).params = s.params := rfl
@[simp] theorem State.withOracle_regs (s : State) (x : List MemAnswer) : (s.withOracle x).regs = s.regs := rfl
@[simp] theorem State.withOracle_activeRtaddr (s : State) (x : List MemAnswer) : (s.withOracle x).activeRtaddr = s.activeRtaddr := rfl
@[simp] theorem State.withOracle_activeIrta (s : State) (x : List MemAnswer) : (s.withOracle x).activeIrta = s.activeIrta := rfl
@[simp] theorem State.withOracle_diag (s : State) (x : List MemAnswer) : (s.withOracle x).diag = s.diag := rfl
@[simp] theorem State.withOracle_wakePending (s : State) (x : List MemAnswer) : (s.withOracle x).wakePending = s.wakePending := rfl
@[simp] theorem State.withOracle_shutdown (s : State) (x : List MemAnswer) : (s.withOracle x).shutdown = s.shutdown := rfl
@[simp] theorem State.withOracle_wphase (s : State) (x : List MemAnswer) : (s.withOracle x).wphase = s.wphase := rfl
@[simp] theorem State.withOracle_stats (s : State) (x : List MemAnswer) : (s.withOracle x).stats = s.stats := rfl
@[simp] theorem State.withOracle_inflight (s : State) (x : List MemAnswer) : (s.withOracle x).inflight = s.inflight := rfl
@[simp] theorem State.withOracle_mem (s : State) (x : List MemAnswer) : (s.withOracle x).mem = s.mem := rfl
@[simp] theorem State.withOracle_oracle (s : State) (x : List MemAnswer) : (s.withOracle x).oracle = x := rfl
@[simp] theorem State.withOracle_agenda (s : State) (x : List MemAnswer) : (s.withOracle x).agenda = s.agenda := rfl
@[simp] theorem State.withOracle_outputs (s : State) (x : List MemAnswer) : (s.withOracle x).outputs = s.outputs := rfl
@[simp] theorem State.withOracle_replies (s : State) (x : List MemAnswer) : (s.withOracle x).replies = s.replies := rfl

@[simp] theorem State.withAgenda_params (s : State) (x : List Event) : (s.withAgenda x).params = s.params := rfl
@[simp] theorem State.withAgenda_regs (s : State) (x : List Event) : (s.withAgenda x).regs = s.regs := rfl
@[simp] theorem State.withAgenda_activeRtaddr (s : State) (x : List Event) : (s.withAgenda x).activeRtaddr = s.activeRtaddr := rfl
@[simp] theorem State.withAgenda_activeIrta (s : State) (x : List Event) : (s.withAgenda x).activeIrta = s.activeIrta := rfl
@[simp] theorem State.withAgenda_diag (s : State) (x : List Event) : (s.withAgenda x).diag = s.diag := rfl
@[simp] theorem State.withAgenda_wakePending (s : State) (x : List Event) : (s.withAgenda x).wakePending = s.wakePending := rfl
@[simp] theorem State.withAgenda_shutdown (s : State) (x : List Event) : (s.withAgenda x).shutdown = s.shutdown := rfl
@[simp] theorem State.withAgenda_wphase (s : State) (x : List Event) : (s.withAgenda x).wphase = s.wphase := rfl
@[simp] theorem State.withAgenda_stats (s : State) (x : List Event) : (s.withAgenda x).stats = s.stats := rfl
@[simp] theorem State.withAgenda_inflight (s : State) (x : List Event) : (s.withAgenda x).inflight = s.inflight := rfl
@[simp] theorem State.withAgenda_mem (s : State) (x : List Event) : (s.withAgenda x).mem = s.mem := rfl
@[simp] theorem State.withAgenda_oracle (s : State) (x : List Event) : (s.withAgenda x).oracle = s.oracle := rfl
@[simp] theorem State.withAgenda_agenda (s : State) (x : List Event) : (s.withAgenda x).agenda = x := rfl
@[simp] theorem State.withAgenda_outputs (s : State) (x : List Event) : (s.withAgenda x).outputs = s.outputs := rfl
@[simp] theorem State.withAgenda_replies (s : State) (x : List Event) : (s.withAgenda x).replies = s.replies := rfl

@[simp] theorem State.emit_params (s : State) (e : OutEvent) : (s.emit e).params = s.params := rfl
@[simp] theorem State.emit_regs (s : State) (e : OutEvent) : (s.emit e).regs = s.regs := rfl
@[simp] theorem State.emit_activeRtaddr (s : State) (e : OutEvent) : (s.emit e).activeRtaddr = s.activeRtaddr := rfl
@[simp] theorem State.emit_activeIrta (s : State) (e : OutEvent) : (s.emit e).activeIrta = s.activeIrta := rfl
@[simp] theorem State.emit_diag (s : State) (e : OutEvent) : (s.emit e).diag = s.diag := rfl
@[simp] theorem State.emit_wakePending (s : State) (e : OutEvent) : (s.emit e).wakePending = s.wakePending := rfl
@[simp] theorem State.emit_shutdown (s : State) (e : OutEvent) : (s.emit e).shutdown = s.shutdown := rfl
@[simp] theorem State.emit_wphase (s : State) (e : OutEvent) : (s.emit e).wphase = s.wphase := rfl
@[simp] theorem State.emit_stats (s : State) (e : OutEvent) : (s.emit e).stats = s.stats := rfl
@[simp] theorem State.emit_inflight (s : State) (e : OutEvent) : (s.emit e).inflight = s.inflight := rfl
@[simp] theorem State.emit_mem (s : State) (e : OutEvent) : (s.emit e).mem = s.mem := rfl
@[simp] theorem State.emit_oracle (s : State) (e : OutEvent) : (s.emit e).oracle = s.oracle := rfl
@[simp] theorem State.emit_agenda (s : State) (e : OutEvent) : (s.emit e).agenda = s.agenda := rfl
@[simp] theorem State.emit_outputs (s : State) (e : OutEvent) : (s.emit e).outputs = s.outputs ++ [e] := rfl
@[simp] theorem State.emit_replies (s : State) (e : OutEvent) : (s.emit e).replies = s.replies := rfl

@[simp] theorem State.reply_params (s : State) (r : Reply) : (s.reply r).params = s.params := rfl
@[simp] theorem State.reply_regs (s : State) (r : Reply) : (s.reply r).regs = s.regs := rfl
@[simp] theorem State.reply_activeRtaddr (s : State) (r : Reply) : (s.reply r).activeRtaddr = s.activeRtaddr := rfl
@[simp] theorem State.reply_activeIrta (s : State) (r : Reply) : (s.reply r).activeIrta = s.activeIrta := rfl
@[simp] theorem State.reply_diag (s : State) (r : Reply) : (s.reply r).diag = s.diag := rfl
@[simp] theorem State.reply_wakePending (s : State) (r : Reply) : (s.reply r).wakePending = s.wakePending := rfl
@[simp] theorem State.reply_shutdown (s : State) (r : Reply) : (s.reply r).shutdown = s.shutdown := rfl
@[simp] theorem State.reply_wphase (s : State) (r : Reply) : (s.reply r).wphase = s.wphase := rfl
@[simp] theorem State.reply_stats (s : State) (r : Reply) : (s.reply r).stats = s.stats := rfl
@[simp] theorem State.reply_inflight (s : State) (r : Reply) : (s.reply r).inflight = s.inflight := rfl
@[simp] theorem State.reply_mem (s : State) (r : Reply) : (s.reply r).mem = s.mem := rfl
@[simp] theorem State.reply_oracle (s : State) (r : Reply) : (s.reply r).oracle = s.oracle := rfl
@[simp] theorem State.reply_agenda (s : State) (r : Reply) : (s.reply r).agenda = s.agenda := rfl
@[simp] theorem State.reply_outputs (s : State) (r : Reply) : (s.reply r).outputs = s.outputs := rfl
@[simp] theorem State.reply_replies (s : State) (r : Reply) : (s.reply r).replies = s.replies ++ [r] := rfl

@[simp] theorem State.withRegs_withRegs (s : State) (x y : RegFile) : (s.withRegs x).withRegs y = s.withRegs y := rfl
@[simp] theorem State.withRegs_self (s : State) : s.withRegs s.regs = s := rfl
@[simp] theorem State.withActiveRtaddr_withActiveRtaddr (s : State) (x y : Word64) : (s.withActiveRtaddr x).withActiveRtaddr y = s.withActiveRtaddr y := rfl
@[simp] theorem State.withActiveRtaddr_self (s : State) : s.withActiveRtaddr s.activeRtaddr = s := rfl
@[simp] theorem State.withActiveIrta_withActiveIrta (s : State) (x y : Word64) : (s.withActiveIrta x).withActiveIrta y = s.withActiveIrta y := rfl
@[simp] theorem State.withActiveIrta_self (s : State) : s.withActiveIrta s.activeIrta = s := rfl
@[simp] theorem State.withDiag_withDiag (s : State) (x y : Diag) : (s.withDiag x).withDiag y = s.withDiag y := rfl
@[simp] theorem State.withDiag_self (s : State) : s.withDiag s.diag = s := rfl
@[simp] theorem State.withWake_withWake (s : State) (x y : Bool) : (s.withWake x).withWake y = s.withWake y := rfl
@[simp] theorem State.withWake_self (s : State) : s.withWake s.wakePending = s := rfl
@[simp] theorem State.withShutdown_withShutdown (s : State) (x y : Bool) : (s.withShutdown x).withShutdown y = s.withShutdown y := rfl
@[simp] theorem State.withShutdown_self (s : State) : s.withShutdown s.shutdown = s := rfl
@[simp] theorem State.withPhase_withPhase (s : State) (x y : WPhase) : (s.withPhase x).withPhase y = s.withPhase y := rfl
@[simp] theorem State.withPhase_self (s : State) : s.withPhase s.wphase = s := rfl
@[simp] theorem State.withStats_withStats (s : State) (x y : Stats) : (s.withStats x).withStats y = s.withStats y := rfl
@[simp] theorem State.withStats_self (s : State) : s.withStats s.stats = s := rfl
@[simp] theorem State.withInflight_withInflight (s : State) (x y : List InFlight) : (s.withInflight x).withInflight y = s.withInflight y := rfl
@[simp] theorem State.withInflight_self (s : State) : s.withInflight s.inflight = s := rfl
@[simp] theorem State.withMem_withMem (s : State) (x y : Memory) : (s.withMem x).withMem y = s.withMem y := rfl
@[simp] theorem State.withMem_self (s : State) : s.withMem s.mem = s := rfl
@[simp] theorem State.withOracle_withOracle (s : State) (x y : List MemAnswer) : (s.withOracle x).withOracle y = s.withOracle y := rfl
@[simp] theorem State.withOracle_self (s : State) : s.withOracle s.oracle = s := rfl
@[simp] theorem State.withAgenda_withAgenda (s : State) (x y : List Event) : (s.withAgenda x).withAgenda y = s.withAgenda y := rfl
@[simp] theorem State.withAgenda_self (s : State) : s.withAgenda s.agenda = s := rfl

end Sys2Proof.Machine
end

