-- ==== Sys2Proof/Laws/Flags.lean ====
section
/-! SUPPORT. Flags and registers of the state: what an assignment changes and what it leaves. -/

namespace Sys2Proof.Machine

/-! ### Where the registers and flags lie -/

@[simp] theorem Reg.off_ver : Reg.ver.off = 0x0 := rfl
@[simp] theorem Reg.off_cap : Reg.cap.off = 0x8 := rfl
@[simp] theorem Reg.off_ecap : Reg.ecap.off = 0x10 := rfl
@[simp] theorem Reg.off_gcmd : Reg.gcmd.off = 0x18 := rfl
@[simp] theorem Reg.off_gsts : Reg.gsts.off = 0x1C := rfl
@[simp] theorem Reg.off_rtaddr : Reg.rtaddr.off = 0x20 := rfl
@[simp] theorem Reg.off_ccmd : Reg.ccmd.off = 0x28 := rfl
@[simp] theorem Reg.off_fsts : Reg.fsts.off = 0x34 := rfl
@[simp] theorem Reg.off_fectl : Reg.fectl.off = 0x38 := rfl
@[simp] theorem Reg.off_fedata : Reg.fedata.off = 0x3C := rfl
@[simp] theorem Reg.off_feaddr : Reg.feaddr.off = 0x40 := rfl
@[simp] theorem Reg.off_feuaddr : Reg.feuaddr.off = 0x44 := rfl
@[simp] theorem Reg.off_iqh : Reg.iqh.off = 0x80 := rfl
@[simp] theorem Reg.off_iqt : Reg.iqt.off = 0x88 := rfl
@[simp] theorem Reg.off_iqa : Reg.iqa.off = 0x90 := rfl
@[simp] theorem Reg.off_ics : Reg.ics.off = 0x9C := rfl
@[simp] theorem Reg.off_iectl : Reg.iectl.off = 0xA0 := rfl
@[simp] theorem Reg.off_iedata : Reg.iedata.off = 0xA4 := rfl
@[simp] theorem Reg.off_ieaddr : Reg.ieaddr.off = 0xA8 := rfl
@[simp] theorem Reg.off_ieuaddr : Reg.ieuaddr.off = 0xAC := rfl
@[simp] theorem Reg.off_iqercd : Reg.iqercd.off = 0xB0 := rfl
@[simp] theorem Reg.off_irta : Reg.irta.off = 0xB8 := rfl
@[simp] theorem Reg.off_iva : Reg.iva.off = 0xE50 := rfl
@[simp] theorem Reg.off_iotlb : Reg.iotlb.off = 0xE58 := rfl
@[simp] theorem Reg.off_frcdLo : Reg.frcdLo.off = 0xE70 := rfl
@[simp] theorem Reg.off_frcdHi : Reg.frcdHi.off = 0xE78 := rfl
@[simp] theorem Reg.size_ver : Reg.ver.size = 4 := rfl
@[simp] theorem Reg.size_cap : Reg.cap.size = 8 := rfl
@[simp] theorem Reg.size_ecap : Reg.ecap.size = 8 := rfl
@[simp] theorem Reg.size_gcmd : Reg.gcmd.size = 4 := rfl
@[simp] theorem Reg.size_gsts : Reg.gsts.size = 4 := rfl
@[simp] theorem Reg.size_rtaddr : Reg.rtaddr.size = 8 := rfl
@[simp] theorem Reg.size_ccmd : Reg.ccmd.size = 8 := rfl
@[simp] theorem Reg.size_fsts : Reg.fsts.size = 4 := rfl
@[simp] theorem Reg.size_fectl : Reg.fectl.size = 4 := rfl
@[simp] theorem Reg.size_fedata : Reg.fedata.size = 4 := rfl
@[simp] theorem Reg.size_feaddr : Reg.feaddr.size = 4 := rfl
@[simp] theorem Reg.size_feuaddr : Reg.feuaddr.size = 4 := rfl
@[simp] theorem Reg.size_iqh : Reg.iqh.size = 8 := rfl
@[simp] theorem Reg.size_iqt : Reg.iqt.size = 8 := rfl
@[simp] theorem Reg.size_iqa : Reg.iqa.size = 8 := rfl
@[simp] theorem Reg.size_ics : Reg.ics.size = 4 := rfl
@[simp] theorem Reg.size_iectl : Reg.iectl.size = 4 := rfl
@[simp] theorem Reg.size_iedata : Reg.iedata.size = 4 := rfl
@[simp] theorem Reg.size_ieaddr : Reg.ieaddr.size = 4 := rfl
@[simp] theorem Reg.size_ieuaddr : Reg.ieuaddr.size = 4 := rfl
@[simp] theorem Reg.size_iqercd : Reg.iqercd.size = 8 := rfl
@[simp] theorem Reg.size_irta : Reg.irta.size = 8 := rfl
@[simp] theorem Reg.size_iva : Reg.iva.size = 8 := rfl
@[simp] theorem Reg.size_iotlb : Reg.iotlb.size = 8 := rfl
@[simp] theorem Reg.size_frcdLo : Reg.frcdLo.size = 8 := rfl
@[simp] theorem Reg.size_frcdHi : Reg.frcdHi.size = 8 := rfl
@[simp] theorem Flag.off_pfo : Flag.pfo.off = 0x34 := rfl
@[simp] theorem Flag.bit_pfo : Flag.pfo.bit = 0 := rfl
@[simp] theorem Flag.off_ppf : Flag.ppf.off = 0x34 := rfl
@[simp] theorem Flag.bit_ppf : Flag.ppf.bit = 1 := rfl
@[simp] theorem Flag.off_iqe : Flag.iqe.off = 0x34 := rfl
@[simp] theorem Flag.bit_iqe : Flag.iqe.bit = 4 := rfl
@[simp] theorem Flag.off_feIm : Flag.feIm.off = 0x38 := rfl
@[simp] theorem Flag.bit_feIm : Flag.feIm.bit = 31 := rfl
@[simp] theorem Flag.off_feIp : Flag.feIp.off = 0x38 := rfl
@[simp] theorem Flag.bit_feIp : Flag.feIp.bit = 30 := rfl
@[simp] theorem Flag.off_ieIm : Flag.ieIm.off = 0xA0 := rfl
@[simp] theorem Flag.bit_ieIm : Flag.ieIm.bit = 31 := rfl
@[simp] theorem Flag.off_ieIp : Flag.ieIp.off = 0xA0 := rfl
@[simp] theorem Flag.bit_ieIp : Flag.ieIp.bit = 30 := rfl
@[simp] theorem Flag.off_iwc : Flag.iwc.off = 0x9C := rfl
@[simp] theorem Flag.bit_iwc : Flag.iwc.bit = 0 := rfl
@[simp] theorem Flag.off_frcdF : Flag.frcdF.off = 0xE7C := rfl
@[simp] theorem Flag.bit_frcdF : Flag.frcdF.bit = 31 := rfl
@[simp] theorem Flag.off_tes : Flag.tes.off = 0x1C := rfl
@[simp] theorem Flag.bit_tes : Flag.tes.bit = 31 := rfl
@[simp] theorem Flag.off_rtps : Flag.rtps.off = 0x1C := rfl
@[simp] theorem Flag.bit_rtps : Flag.rtps.bit = 30 := rfl
@[simp] theorem Flag.off_qies : Flag.qies.off = 0x1C := rfl
@[simp] theorem Flag.bit_qies : Flag.qies.bit = 26 := rfl
@[simp] theorem Flag.off_ires : Flag.ires.off = 0x1C := rfl
@[simp] theorem Flag.bit_ires : Flag.ires.bit = 25 := rfl
@[simp] theorem Flag.off_irtps : Flag.irtps.off = 0x1C := rfl
@[simp] theorem Flag.bit_irtps : Flag.irtps.bit = 24 := rfl
@[simp] theorem Flag.off_cfis : Flag.cfis.off = 0x1C := rfl
@[simp] theorem Flag.bit_cfis : Flag.cfis.bit = 23 := rfl

/-- Two flags in one word at one bit are one flag. -/
theorem Flag.eq_of_off_bit (f g : Flag) (h1 : f.off = g.off) (h2 : f.bit = g.bit) : f = g := by
  cases f <;> cases g <;> first | rfl | (exact absurd h1 (by decide)) | (exact absurd h2 (by decide))

/-- Two flags lie in one word or in words that do not overlap. -/
theorem Flag.off_apart (f g : Flag) : f.off = g.off ∨ f.off + 4 ≤ g.off ∨ g.off + 4 ≤ f.off := by
  cases f <;> cases g <;> decide

theorem Flag.valid (f : Flag) (w : Windows) :
    w.holds f.off ∧ w.holds (f.off + 1) ∧ w.holds (f.off + 2) ∧ w.holds (f.off + 3) := by
  have := w.holdMap
  cases f <;> simp only [Flag.off, Windows.holds] <;> omega

theorem Flag.bit_lt (f : Flag) : f.bit < 32 := by cases f <;> decide

/-- A flag after the assignment of a flag. -/
@[simp] theorem RegFile.flag_setFlag (r : RegFile) (f g : Flag) (b : Bool) :
    (r.setFlag f b).flag g = if g = f then b else r.flag g := by
  unfold RegFile.flag RegFile.setFlag
  rcases Flag.off_apart f g with h | h
  · rw [← h, RegFile.read32_write32 _ _ _ (f.valid _), setBit_getLsbD _ _ _ _ g.bit_lt]
    by_cases hb : g.bit = f.bit
    · simp [Flag.eq_of_off_bit g f h.symm hb]
    · have : g ≠ f := fun e => hb (by rw [e])
      simp [hb, this]
  · rw [RegFile.read32_write32_ne _ _ _ _ h]
    have : g ≠ f := by rintro rfl; omega
    simp [this]

/-- The word of a flag after its assignment. -/
theorem RegFile.read32_setFlag (r : RegFile) (f : Flag) (b : Bool) :
    (r.setFlag f b).read32 f.off = setBit (r.read32 f.off) f.bit b := RegFile.read32_write32 _ _ _ (f.valid _)

theorem RegFile.read32_setFlag_ne (r : RegFile) (f : Flag) (b : Bool) (o : Nat) (h : f.off + 4 ≤ o ∨ o + 4 ≤ f.off) :
    (r.setFlag f b).read32 o = r.read32 o := RegFile.read32_write32_ne _ _ _ _ h

theorem RegFile.read64_setFlag_ne (r : RegFile) (f : Flag) (b : Bool) (o : Nat) (h : f.off + 4 ≤ o ∨ o + 8 ≤ f.off) :
    (r.setFlag f b).read64 o = r.read64 o := RegFile.read64_write32_ne _ _ _ _ h

theorem RegFile.byte_setFlag_ne (r : RegFile) (f : Flag) (b : Bool) (o : Nat) (h : ¬ (f.off ≤ o ∧ o < f.off + 4)) :
    (r.setFlag f b).byte o = r.byte o := by
  rw [RegFile.setFlag, RegFile.byte_write32, if_neg (fun e => h ⟨e.1, e.2.1⟩)]

/-- Assigning a flag the value it has changes nothing. -/
theorem RegFile.setFlag_self (r : RegFile) (f : Flag) : r.setFlag f (r.flag f) = r := by
  rw [RegFile.setFlag, RegFile.flag, setBit_self _ _ f.bit_lt, RegFile.write32_self]

/-- A flag after a raw write elsewhere. -/
theorem RegFile.flag_write32_ne (r : RegFile) (f : Flag) (o : Nat) (v : Word32) (h : f.off + 4 ≤ o ∨ o + 4 ≤ f.off) :
    (r.write32 o v).flag f = r.flag f := by
  unfold RegFile.flag; rw [RegFile.read32_write32_ne _ _ _ _ h.symm]

theorem RegFile.flag_write64_ne (r : RegFile) (f : Flag) (o : Nat) (v : Word64) (h : f.off + 4 ≤ o ∨ o + 8 ≤ f.off) :
    (r.write64 o v).flag f = r.flag f := by
  unfold RegFile.flag; rw [RegFile.read32_write64_ne _ _ _ _ h.symm]

@[simp] theorem State.flag_setFlag (s : State) (f g : Flag) (b : Bool) :
    (s.setFlag f b).flag g = if g = f then b else s.flag g := RegFile.flag_setFlag _ _ _ _

/-- Assigning a flag the value it has changes nothing. -/
theorem State.setFlag_self (s : State) (f : Flag) (b : Bool) (h : s.flag f = b) : s.setFlag f b = s := by
  subst h
  unfold State.setFlag State.flag
  rw [RegFile.setFlag_self]; rfl

theorem State.reg32_setFlag_ne (s : State) (f : Flag) (b : Bool) (x : Reg)
    (h : f.off + 4 ≤ x.off ∨ x.off + 4 ≤ f.off) : (s.setFlag f b).reg32 x = s.reg32 x :=
  RegFile.read32_setFlag_ne _ _ _ _ h

theorem State.reg64_setFlag_ne (s : State) (f : Flag) (b : Bool) (x : Reg)
    (h : f.off + 4 ≤ x.off ∨ x.off + 8 ≤ f.off) : (s.setFlag f b).reg64 x = s.reg64 x :=
  RegFile.read64_setFlag_ne _ _ _ _ h

theorem State.flag_setReg32_ne (s : State) (f : Flag) (x : Reg) (v : Word32)
    (h : f.off + 4 ≤ x.off ∨ x.off + 4 ≤ f.off) : (s.setReg32 x v).flag f = s.flag f :=
  RegFile.flag_write32_ne _ _ _ _ h

theorem State.flag_setReg64_ne (s : State) (f : Flag) (x : Reg) (v : Word64)
    (h : f.off + 4 ≤ x.off ∨ x.off + 8 ≤ f.off) : (s.setReg64 x v).flag f = s.flag f :=
  RegFile.flag_write64_ne _ _ _ _ h

theorem Reg.span_valid (x : Reg) (w : Windows) : w.holdsSpan x.off x.size := by
  have := w.holdMap
  cases x <;> simp only [Windows.holdsSpan, Reg.off, Reg.size] <;> omega

theorem State.reg64_setReg64 (s : State) (x : Reg) (v : Word64) (h : x.size = 8) : (s.setReg64 x v).reg64 x = v :=
  RegFile.read64_write64 _ _ _ (by have := Reg.span_valid x s.regs.win; rwa [h] at this)

theorem State.reg32_setReg32 (s : State) (x : Reg) (v : Word32) (h : x.size = 4) : (s.setReg32 x v).reg32 x = v :=
  RegFile.read32_write32 _ _ _ (by have := Reg.span_valid x s.regs.win; rw [h] at this; unfold Windows.holdsSpan Windows.holds at *; omega)

theorem State.reg64_setReg64_ne (s : State) (x y : Reg) (v : Word64) (h : x.off + 8 ≤ y.off ∨ y.off + 8 ≤ x.off) :
    (s.setReg64 x v).reg64 y = s.reg64 y := RegFile.read64_write64_ne _ _ _ _ h

theorem State.reg64_setReg32_ne (s : State) (x y : Reg) (v : Word32) (h : x.off + 4 ≤ y.off ∨ y.off + 8 ≤ x.off) :
    (s.setReg32 x v).reg64 y = s.reg64 y := RegFile.read64_write32_ne _ _ _ _ h

theorem State.reg32_setReg64_ne (s : State) (x y : Reg) (v : Word64) (h : x.off + 8 ≤ y.off ∨ y.off + 4 ≤ x.off) :
    (s.setReg64 x v).reg32 y = s.reg32 y := RegFile.read32_write64_ne _ _ _ _ h

theorem State.reg32_setReg32_ne (s : State) (x y : Reg) (v : Word32) (h : x.off + 4 ≤ y.off ∨ y.off + 4 ≤ x.off) :
    (s.setReg32 x v).reg32 y = s.reg32 y := RegFile.read32_write32_ne _ _ _ _ h

@[simp] theorem State.setFlag_params (s : State) (f : Flag) (b : Bool) : (s.setFlag f b).params = s.params := rfl
@[simp] theorem State.setFlag_regs (s : State) (f : Flag) (b : Bool) : (s.setFlag f b).regs = s.regs.setFlag f b := rfl
@[simp] theorem State.setFlag_activeRtaddr (s : State) (f : Flag) (b : Bool) : (s.setFlag f b).activeRtaddr = s.activeRtaddr := rfl
@[simp] theorem State.setFlag_activeIrta (s : State) (f : Flag) (b : Bool) : (s.setFlag f b).activeIrta = s.activeIrta := rfl
@[simp] theorem State.setFlag_diag (s : State) (f : Flag) (b : Bool) : (s.setFlag f b).diag = s.diag := rfl
@[simp] theorem State.setFlag_wakePending (s : State) (f : Flag) (b : Bool) : (s.setFlag f b).wakePending = s.wakePending := rfl
@[simp] theorem State.setFlag_shutdown (s : State) (f : Flag) (b : Bool) : (s.setFlag f b).shutdown = s.shutdown := rfl
@[simp] theorem State.setFlag_wphase (s : State) (f : Flag) (b : Bool) : (s.setFlag f b).wphase = s.wphase := rfl
@[simp] theorem State.setFlag_stats (s : State) (f : Flag) (b : Bool) : (s.setFlag f b).stats = s.stats := rfl
@[simp] theorem State.setFlag_inflight (s : State) (f : Flag) (b : Bool) : (s.setFlag f b).inflight = s.inflight := rfl
@[simp] theorem State.setFlag_mem (s : State) (f : Flag) (b : Bool) : (s.setFlag f b).mem = s.mem := rfl
@[simp] theorem State.setFlag_oracle (s : State) (f : Flag) (b : Bool) : (s.setFlag f b).oracle = s.oracle := rfl
@[simp] theorem State.setFlag_agenda (s : State) (f : Flag) (b : Bool) : (s.setFlag f b).agenda = s.agenda := rfl
@[simp] theorem State.setFlag_outputs (s : State) (f : Flag) (b : Bool) : (s.setFlag f b).outputs = s.outputs := rfl
@[simp] theorem State.setFlag_replies (s : State) (f : Flag) (b : Bool) : (s.setFlag f b).replies = s.replies := rfl

@[simp] theorem State.setReg32_params (s : State) (x : Reg) (v : Word32) : (s.setReg32 x v).params = s.params := rfl
@[simp] theorem State.setReg32_regs (s : State) (x : Reg) (v : Word32) : (s.setReg32 x v).regs = s.regs.write32 x.off v := rfl
@[simp] theorem State.setReg32_activeRtaddr (s : State) (x : Reg) (v : Word32) : (s.setReg32 x v).activeRtaddr = s.activeRtaddr := rfl
@[simp] theorem State.setReg32_activeIrta (s : State) (x : Reg) (v : Word32) : (s.setReg32 x v).activeIrta = s.activeIrta := rfl
@[simp] theorem State.setReg32_diag (s : State) (x : Reg) (v : Word32) : (s.setReg32 x v).diag = s.diag := rfl
@[simp] theorem State.setReg32_wakePending (s : State) (x : Reg) (v : Word32) : (s.setReg32 x v).wakePending = s.wakePending := rfl
@[simp] theorem State.setReg32_shutdown (s : State) (x : Reg) (v : Word32) : (s.setReg32 x v).shutdown = s.shutdown := rfl
@[simp] theorem State.setReg32_wphase (s : State) (x : Reg) (v : Word32) : (s.setReg32 x v).wphase = s.wphase := rfl
@[simp] theorem State.setReg32_stats (s : State) (x : Reg) (v : Word32) : (s.setReg32 x v).stats = s.stats := rfl
@[simp] theorem State.setReg32_inflight (s : State) (x : Reg) (v : Word32) : (s.setReg32 x v).inflight = s.inflight := rfl
@[simp] theorem State.setReg32_mem (s : State) (x : Reg) (v : Word32) : (s.setReg32 x v).mem = s.mem := rfl
@[simp] theorem State.setReg32_oracle (s : State) (x : Reg) (v : Word32) : (s.setReg32 x v).oracle = s.oracle := rfl
@[simp] theorem State.setReg32_agenda (s : State) (x : Reg) (v : Word32) : (s.setReg32 x v).agenda = s.agenda := rfl
@[simp] theorem State.setReg32_outputs (s : State) (x : Reg) (v : Word32) : (s.setReg32 x v).outputs = s.outputs := rfl
@[simp] theorem State.setReg32_replies (s : State) (x : Reg) (v : Word32) : (s.setReg32 x v).replies = s.replies := rfl

@[simp] theorem State.setReg64_params (s : State) (x : Reg) (v : Word64) : (s.setReg64 x v).params = s.params := rfl
@[simp] theorem State.setReg64_regs (s : State) (x : Reg) (v : Word64) : (s.setReg64 x v).regs = s.regs.write64 x.off v := rfl
@[simp] theorem State.setReg64_activeRtaddr (s : State) (x : Reg) (v : Word64) : (s.setReg64 x v).activeRtaddr = s.activeRtaddr := rfl
@[simp] theorem State.setReg64_activeIrta (s : State) (x : Reg) (v : Word64) : (s.setReg64 x v).activeIrta = s.activeIrta := rfl
@[simp] theorem State.setReg64_diag (s : State) (x : Reg) (v : Word64) : (s.setReg64 x v).diag = s.diag := rfl
@[simp] theorem State.setReg64_wakePending (s : State) (x : Reg) (v : Word64) : (s.setReg64 x v).wakePending = s.wakePending := rfl
@[simp] theorem State.setReg64_shutdown (s : State) (x : Reg) (v : Word64) : (s.setReg64 x v).shutdown = s.shutdown := rfl
@[simp] theorem State.setReg64_wphase (s : State) (x : Reg) (v : Word64) : (s.setReg64 x v).wphase = s.wphase := rfl
@[simp] theorem State.setReg64_stats (s : State) (x : Reg) (v : Word64) : (s.setReg64 x v).stats = s.stats := rfl
@[simp] theorem State.setReg64_inflight (s : State) (x : Reg) (v : Word64) : (s.setReg64 x v).inflight = s.inflight := rfl
@[simp] theorem State.setReg64_mem (s : State) (x : Reg) (v : Word64) : (s.setReg64 x v).mem = s.mem := rfl
@[simp] theorem State.setReg64_oracle (s : State) (x : Reg) (v : Word64) : (s.setReg64 x v).oracle = s.oracle := rfl
@[simp] theorem State.setReg64_agenda (s : State) (x : Reg) (v : Word64) : (s.setReg64 x v).agenda = s.agenda := rfl
@[simp] theorem State.setReg64_outputs (s : State) (x : Reg) (v : Word64) : (s.setReg64 x v).outputs = s.outputs := rfl
@[simp] theorem State.setReg64_replies (s : State) (x : Reg) (v : Word64) : (s.setReg64 x v).replies = s.replies := rfl

@[simp] theorem State.flag_withActiveRtaddr (s : State) (x : Word64) (f : Flag) : (s.withActiveRtaddr x).flag f = s.flag f := rfl
@[simp] theorem State.reg32_withActiveRtaddr (s : State) (x : Word64) (y : Reg) : (s.withActiveRtaddr x).reg32 y = s.reg32 y := rfl
@[simp] theorem State.reg64_withActiveRtaddr (s : State) (x : Word64) (y : Reg) : (s.withActiveRtaddr x).reg64 y = s.reg64 y := rfl
@[simp] theorem State.flag_withActiveIrta (s : State) (x : Word64) (f : Flag) : (s.withActiveIrta x).flag f = s.flag f := rfl
@[simp] theorem State.reg32_withActiveIrta (s : State) (x : Word64) (y : Reg) : (s.withActiveIrta x).reg32 y = s.reg32 y := rfl
@[simp] theorem State.reg64_withActiveIrta (s : State) (x : Word64) (y : Reg) : (s.withActiveIrta x).reg64 y = s.reg64 y := rfl
@[simp] theorem State.flag_withDiag (s : State) (x : Diag) (f : Flag) : (s.withDiag x).flag f = s.flag f := rfl
@[simp] theorem State.reg32_withDiag (s : State) (x : Diag) (y : Reg) : (s.withDiag x).reg32 y = s.reg32 y := rfl
@[simp] theorem State.reg64_withDiag (s : State) (x : Diag) (y : Reg) : (s.withDiag x).reg64 y = s.reg64 y := rfl
@[simp] theorem State.flag_withWake (s : State) (x : Bool) (f : Flag) : (s.withWake x).flag f = s.flag f := rfl
@[simp] theorem State.reg32_withWake (s : State) (x : Bool) (y : Reg) : (s.withWake x).reg32 y = s.reg32 y := rfl
@[simp] theorem State.reg64_withWake (s : State) (x : Bool) (y : Reg) : (s.withWake x).reg64 y = s.reg64 y := rfl
@[simp] theorem State.flag_withShutdown (s : State) (x : Bool) (f : Flag) : (s.withShutdown x).flag f = s.flag f := rfl
@[simp] theorem State.reg32_withShutdown (s : State) (x : Bool) (y : Reg) : (s.withShutdown x).reg32 y = s.reg32 y := rfl
@[simp] theorem State.reg64_withShutdown (s : State) (x : Bool) (y : Reg) : (s.withShutdown x).reg64 y = s.reg64 y := rfl
@[simp] theorem State.flag_withPhase (s : State) (x : WPhase) (f : Flag) : (s.withPhase x).flag f = s.flag f := rfl
@[simp] theorem State.reg32_withPhase (s : State) (x : WPhase) (y : Reg) : (s.withPhase x).reg32 y = s.reg32 y := rfl
@[simp] theorem State.reg64_withPhase (s : State) (x : WPhase) (y : Reg) : (s.withPhase x).reg64 y = s.reg64 y := rfl
@[simp] theorem State.flag_withStats (s : State) (x : Stats) (f : Flag) : (s.withStats x).flag f = s.flag f := rfl
@[simp] theorem State.reg32_withStats (s : State) (x : Stats) (y : Reg) : (s.withStats x).reg32 y = s.reg32 y := rfl
@[simp] theorem State.reg64_withStats (s : State) (x : Stats) (y : Reg) : (s.withStats x).reg64 y = s.reg64 y := rfl
@[simp] theorem State.flag_withInflight (s : State) (x : List InFlight) (f : Flag) : (s.withInflight x).flag f = s.flag f := rfl
@[simp] theorem State.reg32_withInflight (s : State) (x : List InFlight) (y : Reg) : (s.withInflight x).reg32 y = s.reg32 y := rfl
@[simp] theorem State.reg64_withInflight (s : State) (x : List InFlight) (y : Reg) : (s.withInflight x).reg64 y = s.reg64 y := rfl
@[simp] theorem State.flag_withMem (s : State) (x : Memory) (f : Flag) : (s.withMem x).flag f = s.flag f := rfl
@[simp] theorem State.reg32_withMem (s : State) (x : Memory) (y : Reg) : (s.withMem x).reg32 y = s.reg32 y := rfl
@[simp] theorem State.reg64_withMem (s : State) (x : Memory) (y : Reg) : (s.withMem x).reg64 y = s.reg64 y := rfl
@[simp] theorem State.flag_withOracle (s : State) (x : List MemAnswer) (f : Flag) : (s.withOracle x).flag f = s.flag f := rfl
@[simp] theorem State.reg32_withOracle (s : State) (x : List MemAnswer) (y : Reg) : (s.withOracle x).reg32 y = s.reg32 y := rfl
@[simp] theorem State.reg64_withOracle (s : State) (x : List MemAnswer) (y : Reg) : (s.withOracle x).reg64 y = s.reg64 y := rfl
@[simp] theorem State.flag_withAgenda (s : State) (x : List Event) (f : Flag) : (s.withAgenda x).flag f = s.flag f := rfl
@[simp] theorem State.reg32_withAgenda (s : State) (x : List Event) (y : Reg) : (s.withAgenda x).reg32 y = s.reg32 y := rfl
@[simp] theorem State.reg64_withAgenda (s : State) (x : List Event) (y : Reg) : (s.withAgenda x).reg64 y = s.reg64 y := rfl
@[simp] theorem State.flag_emit (s : State) (x : OutEvent) (f : Flag) : (s.emit x).flag f = s.flag f := rfl
@[simp] theorem State.reg32_emit (s : State) (x : OutEvent) (y : Reg) : (s.emit x).reg32 y = s.reg32 y := rfl
@[simp] theorem State.reg64_emit (s : State) (x : OutEvent) (y : Reg) : (s.emit x).reg64 y = s.reg64 y := rfl
@[simp] theorem State.flag_reply (s : State) (x : Reply) (f : Flag) : (s.reply x).flag f = s.flag f := rfl
@[simp] theorem State.reg32_reply (s : State) (x : Reply) (y : Reg) : (s.reply x).reg32 y = s.reg32 y := rfl
@[simp] theorem State.reg64_reply (s : State) (x : Reply) (y : Reg) : (s.reply x).reg64 y = s.reg64 y := rfl

end Sys2Proof.Machine
end

