-- ==== Sys2Proof/Laws/Memory.lean ====
section
/-! SUPPORT. Guest memory: a read after a write, and the canonical form that every operation keeps. -/

namespace Sys2Proof.Machine

/-- A byte after the write of a byte. -/
theorem Memory.get_put (m : Memory) (h : m.Pairwise (fun c d => c.1 < d.1)) (a x : Nat) (b : Byte) :
    (m.put a b).get x = if x = a then b else m.get x := by
  induction m with
  | nil =>
    unfold Memory.put
    by_cases hb : b = unwritten
    · simp [hb, Memory.get]
    · simp only [hb, if_false, Memory.get]
      by_cases hx : x = a
      · simp [hx]
      · simp [hx, Ne.symm hx]
  | cons c rest ih =>
    obtain ⟨k, v⟩ := c
    have hrest := (List.pairwise_cons.mp h).2
    have hlt := (List.pairwise_cons.mp h).1
    have hnone : ∀ y, (∀ d ∈ rest, d.1 ≠ y) → Memory.get rest y = unwritten := by
      intro y
      clear ih h hlt
      induction rest with
      | nil => intro _; rfl
      | cons d r ih2 =>
        intro hy
        have h1 := hy d (by simp)
        obtain ⟨k2, v2⟩ := d
        simp only [Memory.get]
        rw [if_neg h1]
        exact ih2 (List.pairwise_cons.mp hrest).2 (fun d hd => hy d (by simp [hd]))
    unfold Memory.put
    by_cases h1 : k < a
    · rw [if_pos h1]
      simp only [Memory.get, ih hrest]
      by_cases hk : k = x
      · have : x ≠ a := by omega
        simp [hk, this]
      · simp [hk]
    · rw [if_neg h1]
      by_cases h2 : k = a
      · subst h2
        rw [if_pos rfl]
        by_cases hb : b = unwritten
        · rw [if_pos hb]
          by_cases hx : x = k
          · subst hx
            rw [if_pos rfl, hb, hnone x (fun d hd => by have := hlt d hd; simp at this; omega)]
          · simp [hx, Memory.get, Ne.symm hx]
        · rw [if_neg hb]
          simp only [Memory.get]
          by_cases hx : x = k
          · simp [hx]
          · simp [hx, Ne.symm hx]
      · rw [if_neg h2]
        by_cases hb : b = unwritten
        · rw [if_pos hb]
          by_cases hx : x = a
          · subst hx
            simp only [Memory.get, if_true]
            rw [if_neg h2, hb, hnone x (fun d hd => by have := hlt d hd; simp at this; omega)]
          · simp [hx]
        · rw [if_neg hb]
          simp only [Memory.get]
          by_cases hx : x = a
          · simp [hx]
          · simp [hx, Ne.symm hx]

/-- The cells of memory after the write of a byte. -/
theorem Memory.mem_put (m : Memory) (a : Nat) (b : Byte) (c : Host.Cell) (h : c ∈ m.put a b) :
    c ∈ m ∨ (c = (a, b) ∧ b ≠ unwritten) := by
  induction m with
  | nil =>
    unfold Memory.put at h
    split at h <;> simp_all
  | cons d rest ih =>
    obtain ⟨k, v⟩ := d
    unfold Memory.put at h
    split at h
    · rcases List.mem_cons.mp h with h | h
      · left; simp [h]
      · rcases ih h with h | h
        · left; simp [h]
        · right; exact h
    · split at h
      · split at h
        · left; simp [h]
        · rcases List.mem_cons.mp h with h | h
          · right; exact ⟨h, by assumption⟩
          · left; simp [h]
      · split at h
        · left; exact h
        · rcases List.mem_cons.mp h with h | h
          · right; exact ⟨h, by assumption⟩
          · left; exact h

/-- A byte write keeps the addresses strictly rising. -/
theorem Memory.put_sorted (m : Memory) (a : Nat) (b : Byte) (h : m.Pairwise (fun c d => c.1 < d.1)) :
    (m.put a b).Pairwise (fun c d => c.1 < d.1) := by
  induction m with
  | nil => unfold Memory.put; split <;> simp
  | cons d rest ih =>
    obtain ⟨k, v⟩ := d
    have hrest := (List.pairwise_cons.mp h).2
    have hlt := (List.pairwise_cons.mp h).1
    unfold Memory.put
    split
    · next h1 =>
      refine List.pairwise_cons.mpr ⟨fun c hc => ?_, ih hrest⟩
      rcases Memory.mem_put _ _ _ _ hc with hc | ⟨hc, _⟩
      · exact hlt c hc
      · rw [hc]; exact h1
    · next h1 =>
      split
      · next h2 =>
        split
        · exact hrest
        · refine List.pairwise_cons.mpr ⟨fun c hc => ?_, hrest⟩
          have := hlt c hc; subst h2; exact this
      · next h2 =>
        split
        · exact h
        · refine List.pairwise_cons.mpr ⟨fun c hc => ?_, h⟩
          rcases List.mem_cons.mp hc with hc | hc
          · rw [hc]; show a < k; omega
          · have := hlt c hc; simp at this; show a < c.1; omega

/-- A byte write keeps the canonical form. -/
theorem Memory.put_wf (m : Memory) (a : Nat) (b : Byte) (h : m.wf) (ha : a < 2 ^ 64) : (m.put a b).wf := by
  refine ⟨Memory.put_sorted m a b h.1, fun c hc => ?_⟩
  rcases Memory.mem_put m a b c hc with hc | ⟨hc, hb⟩
  · exact h.2 c hc
  · rw [hc]; exact ⟨hb, ha⟩

/-- A store keeps the canonical form. -/
theorem Memory.store_wf (m : Memory) (a : Word64) (bs : List Byte) (h : m.wf) : (m.store a bs).wf := by
  induction bs generalizing m a with
  | nil => exact h
  | cons b bs ih => exact ih _ _ (Memory.put_wf m _ b h a.isLt)

/-- A byte after a store, of an address that no stored byte goes to. -/
theorem Memory.byteAt_store_ne (m : Memory) (a x : Word64) (bs : List Byte) (h : m.wf)
    (hx : ∀ k, k < bs.length → x ≠ a + BitVec.ofNat 64 k) : (m.store a bs).byteAt x = m.byteAt x := by
  induction bs generalizing m a with
  | nil => rfl
  | cons b bs ih =>
    have h0 : x ≠ a := by have := hx 0 (by simp); simpa using this
    have hne : x.toNat ≠ a.toNat := fun e => h0 (BitVec.eq_of_toNat_eq e)
    rw [Memory.store, ih _ _ (Memory.put_wf m _ b h a.isLt), Memory.byteAt, Memory.byteAt, Memory.get_put _ h.1,
      if_neg hne]
    intro k hk
    have := hx (k + 1) (by simp; omega)
    intro e; apply this; rw [e]
    apply BitVec.eq_of_toNat_eq
    simp [BitVec.toNat_add]; omega

/-- A byte after a store, of an address that the `k`-th stored byte goes to. -/
theorem Memory.byteAt_store (m : Memory) (a : Word64) (bs : List Byte) (h : m.wf) (hl : bs.length ≤ 2 ^ 64) (k : Nat)
    (hk : k < bs.length) : (m.store a bs).byteAt (a + BitVec.ofNat 64 k) = bs[k] := by
  induction bs generalizing m a k with
  | nil => simp at hk
  | cons b bs ih =>
    have hwf := Memory.put_wf m a.toNat b h a.isLt
    rw [Memory.store]
    cases k with
    | zero =>
      rw [Memory.byteAt_store_ne _ _ _ _ hwf]
      · simp [Memory.byteAt, Memory.get_put _ h.1]
      · intro j hj e
        have e2 : (a + BitVec.ofNat 64 0).toNat = (a + 1 + BitVec.ofNat 64 j).toNat := by rw [e]
        simp [BitVec.toNat_add] at e2
        have := a.isLt
        simp at hl
        omega
    | succ j =>
      have hj : j < bs.length := by simpa using hk
      have e : a + BitVec.ofNat 64 (j + 1) = a + 1 + BitVec.ofNat 64 j := by
        apply BitVec.eq_of_toNat_eq
        simp [BitVec.toNat_add]; omega
      rw [e, ih _ _ hwf (by simp at hl; omega) j hj]; rfl

@[simp] theorem Memory.bytesAt_length (m : Memory) (a : Word64) (n : Nat) : (m.bytesAt a n).length = n := by
  simp [Memory.bytesAt]

theorem Memory.bytesAt_getElem (m : Memory) (a : Word64) (n k : Nat) (h : k < n) :
    (m.bytesAt a n)[k]? = some (m.byteAt (a + BitVec.ofNat 64 k)) := by
  simp [Memory.bytesAt, h]

end Sys2Proof.Machine
end

