-- ==== Sys2Proof/Laws/Space.lean ====
section
/-! SUPPORT. The register space bit by bit: what raw writes, flag assignments and masked writes do to each of its bits. -/

namespace Sys2Proof.Machine

/-- Register files with the same bits are equal. -/
theorem RegFile.ext_spaceBit {r r' : RegFile} (hw : r.win = r'.win) (h : ∀ k, r.spaceBit k = r'.spaceBit k) :
    r = r' := by
  refine RegFile.ext_byte hw fun off _ => BitVec.eq_of_getLsbD_eq fun i hi => ?_
  have := h (8 * off + i)
  unfold RegFile.spaceBit at this
  rwa [show (8 * off + i) / 8 = off by omega, show (8 * off + i) % 8 = i by omega] at this

/-- A bit of a 32-bit register. -/
theorem RegFile.read32_getLsbD (r : RegFile) (off j : Nat) (h : j < 32) :
    (r.read32 off).getLsbD j = r.spaceBit (8 * off + j) := by
  have h8 : j % 8 < 8 := by omega
  have := congrArg (fun b => b.getLsbD (j % 8)) (RegFile.byte_eq_byteOf_read32 r off (j / 8) (by omega))
  simp only [byteOf_getLsbD, h8, decide_true, Bool.true_and] at this
  rw [RegFile.spaceBit, show (8 * off + j) / 8 = off + j / 8 by omega, show (8 * off + j) % 8 = j % 8 by omega, ← this,
    show 8 * (j / 8) + j % 8 = j by omega]

/-- A bit of a 64-bit register. -/
theorem RegFile.read64_getLsbD (r : RegFile) (off j : Nat) (h : j < 64) :
    (r.read64 off).getLsbD j = r.spaceBit (8 * off + j) := by
  rw [RegFile.read64, BitVec.getLsbD_append]
  by_cases h2 : j < 32
  · rw [if_pos h2, RegFile.read32_getLsbD _ _ _ h2]
  · rw [if_neg h2, RegFile.read32_getLsbD _ _ _ (by omega)]; congr 1; omega

/-- A flag is a bit of the register space. -/
theorem RegFile.flag_eq_spaceBit (r : RegFile) (f : Flag) : r.flag f = r.spaceBit f.pos :=
  RegFile.read32_getLsbD _ _ _ f.bit_lt

theorem State.flag_eq_spaceBit (s : State) (f : Flag) : s.flag f = s.regs.spaceBit f.pos :=
  RegFile.flag_eq_spaceBit _ _

/-- A bit of the register space after a raw 4-byte write (R241). -/
theorem RegFile.spaceBit_write32 (r : RegFile) (off k : Nat) (v : Word32) :
    (r.write32 off v).spaceBit k
      = if 8 * off ≤ k ∧ k < 8 * (off + 4) ∧ r.win.holds (k / 8) then v.getLsbD (k - 8 * off) else r.spaceBit k := by
  have h8 : k % 8 < 8 := by omega
  unfold RegFile.spaceBit
  rw [RegFile.byte_write32]
  by_cases h : 8 * off ≤ k ∧ k < 8 * (off + 4) ∧ r.win.holds (k / 8)
  · rw [if_pos h, if_pos ⟨by omega, by omega, h.2.2⟩, byteOf_getLsbD]
    simp only [h8, decide_true, Bool.true_and]
    congr 1; omega
  · rw [if_neg h, if_neg (fun e => h ⟨by omega, by omega, e.2.2⟩)]

/-- A bit of the register space after a raw 8-byte write (R241). -/
theorem RegFile.spaceBit_write64 (r : RegFile) (off k : Nat) (v : Word64) :
    (r.write64 off v).spaceBit k
      = if 8 * off ≤ k ∧ k < 8 * (off + 8) ∧ r.win.holds (k / 8) then v.getLsbD (k - 8 * off) else r.spaceBit k := by
  have h8 : k % 8 < 8 := by omega
  unfold RegFile.spaceBit
  rw [RegFile.byte_write64]
  by_cases h : 8 * off ≤ k ∧ k < 8 * (off + 8) ∧ r.win.holds (k / 8)
  · rw [if_pos h, if_pos ⟨by omega, by omega, h.2.2⟩, byteOf_getLsbD]
    simp only [h8, decide_true, Bool.true_and]
    congr 1; omega
  · rw [if_neg h, if_neg (fun e => h ⟨by omega, by omega, e.2.2⟩)]

/-- A bit of the register space after a flag assignment: only the flag's own bit changes. -/
theorem RegFile.spaceBit_setFlag (r : RegFile) (f : Flag) (b : Bool) (k : Nat) :
    (r.setFlag f b).spaceBit k = if k = f.pos then b else r.spaceBit k := by
  have hb := f.bit_lt
  have hv := f.valid r.win
  rw [RegFile.setFlag, RegFile.spaceBit_write32]
  unfold Flag.pos
  by_cases h : 8 * f.off ≤ k ∧ k < 8 * (f.off + 4)
  · have hvk : r.win.holds (k / 8) := by
      obtain ⟨h0, h1, h2, h3⟩ := hv
      have : k / 8 = f.off ∨ k / 8 = f.off + 1 ∨ k / 8 = f.off + 2 ∨ k / 8 = f.off + 3 := by omega
      rcases this with e | e | e | e <;> rw [e] <;> assumption
    rw [if_pos ⟨h.1, h.2, hvk⟩, setBit_getLsbD _ _ _ _ (by omega), RegFile.read32_getLsbD _ _ _ (by omega),
      show 8 * f.off + (k - 8 * f.off) = k by omega]
    by_cases e : k = 8 * f.off + f.bit
    · rw [if_pos (by omega), if_pos e]
    · rw [if_neg (by omega), if_neg e]
  · rw [if_neg (fun e => h ⟨e.1, e.2.1⟩), if_neg (by omega)]

/-- A bit of the register space after a raw write of a whole 64-bit register. -/
theorem RegFile.spaceBit_writeReg64 (r : RegFile) (x : Reg) (k : Nat) (v : Word64) (h : x.size = 8) :
    (r.write64 x.off v).spaceBit k
      = if 8 * x.off ≤ k ∧ k < 8 * (x.off + 8) then v.getLsbD (k - 8 * x.off) else r.spaceBit k := by
  rw [RegFile.spaceBit_write64]
  have hv := Reg.span_valid x r.win
  rw [h] at hv
  by_cases e : 8 * x.off ≤ k ∧ k < 8 * (x.off + 8)
  · rw [if_pos e, if_pos ⟨e.1, e.2, by unfold Windows.holdsSpan Windows.holds at *; omega⟩]
  · rw [if_neg e, if_neg (fun e2 => e ⟨e2.1, e2.2.1⟩)]

/-- A bit of the register space after a raw write of a whole 32-bit register. -/
theorem RegFile.spaceBit_writeReg32 (r : RegFile) (x : Reg) (k : Nat) (v : Word32) (h : x.size = 4) :
    (r.write32 x.off v).spaceBit k
      = if 8 * x.off ≤ k ∧ k < 8 * (x.off + 4) then v.getLsbD (k - 8 * x.off) else r.spaceBit k := by
  rw [RegFile.spaceBit_write32]
  have hv := Reg.span_valid x r.win
  rw [h] at hv
  by_cases e : 8 * x.off ≤ k ∧ k < 8 * (x.off + 4)
  · rw [if_pos e, if_pos ⟨e.1, e.2, by unfold Windows.holdsSpan Windows.holds at *; omega⟩]
  · rw [if_neg e, if_neg (fun e2 => e ⟨e2.1, e2.2.1⟩)]

/-- The acceptance test of the model is R131's. -/
theorem accepted_four (w : Windows) (off : Nat) : accepted w off 4 = true ↔ Accepts w off 4 := by
  simp only [accepted, inOneGroup, Accepts, Bool.and_eq_true, Bool.or_eq_true, decide_eq_true_eq, beq_iff_eq, true_or,
    true_and]

theorem accepted_eight (w : Windows) (off : Nat) : accepted w off 8 = true ↔ Accepts w off 8 := by
  simp only [accepted, inOneGroup, Accepts, Bool.and_eq_true, Bool.or_eq_true, decide_eq_true_eq, beq_iff_eq, or_true,
    true_and]

/-- A bit of the register space after a guest's 4-byte write: the masked bit of R242. -/
theorem RegFile.spaceBit_semWrite32 (p : Params) (r : RegFile) (off k : Nat) (v : Word32) (h : Accepts r.win off 4) :
    (r.semWrite32 p off v).spaceBit k = maskedBit p r off 4 (v.setWidth 64) k := by
  have h8 : k % 8 < 8 := by omega
  unfold maskedBit
  by_cases e : 8 * off ≤ k ∧ k < 8 * (off + 4)
  · have hv : r.win.holds (k / 8) := by unfold Windows.holds; unfold Accepts at h; omega
    rw [if_pos e]
    unfold RegFile.spaceBit
    rw [RegFile.byte_semWrite32, if_pos ⟨by omega, by omega, hv⟩, commit_getLsbD _ _ _ _ _ h8, byteOf_getLsbD,
      BitVec.getLsbD_setWidth, show 8 * (k / 8 - off) + k % 8 = k - 8 * off by omega]
    simp only [h8, decide_true, Bool.true_and, show k - 8 * off < 64 by omega]
  · rw [if_neg e]
    unfold RegFile.spaceBit
    rw [RegFile.byte_semWrite32, if_neg (fun e2 => e ⟨by omega, by omega⟩)]

/-- A masked 8-byte write is the masked writes of its halves (R242). -/
theorem RegFile.semWrite64_halves (p : Params) (r : RegFile) (off : Nat) (v : Word64) :
    r.semWrite64 p off v =
      (r.write32 off (commit (rwMask32 p off) (rw1cMask32 off) (r.read32 off) (v.extractLsb' 0 32))).write32 (off + 4)
        (commit (rwMask32 p (off + 4)) (rw1cMask32 (off + 4)) (r.read32 (off + 4)) (v.extractLsb' 32 32)) := by
  rw [RegFile.semWrite64, RegFile.write64]
  have hv : v = (v.extractLsb' 32 32 ++ v.extractLsb' 0 32 : BitVec 64) := (append_halves v).symm
  conv_lhs => rw [hv]
  rw [rwMask64, rw1cMask64, RegFile.read64, commit_low, commit_high]

/-- A bit of the register space after a guest's 8-byte write: the masked bit of R242. -/
theorem RegFile.spaceBit_semWrite64 (p : Params) (r : RegFile) (off k : Nat) (v : Word64) (h : Accepts r.win off 8) :
    (r.semWrite64 p off v).spaceBit k = maskedBit p r off 8 v k := by
  have h8 : k % 8 < 8 := by omega
  have hl := RegFile.spaceBit_semWrite32 p r off k (v.extractLsb' 0 32)
    (by unfold Accepts at *; omega)
  have hh := RegFile.spaceBit_semWrite32 p r (off + 4) k (v.extractLsb' 32 32)
    (by unfold Accepts at *; omega)
  rw [RegFile.semWrite32, RegFile.spaceBit_write32] at hl hh
  rw [RegFile.semWrite64_halves, RegFile.spaceBit_write32]
  unfold maskedBit at *
  by_cases e : 8 * (off + 4) ≤ k ∧ k < 8 * (off + 4 + 4)
  · have hv : r.win.holds (k / 8) := by unfold Windows.holds; unfold Accepts at h; omega
    rw [if_pos ⟨e.1, e.2, hv⟩] at hh
    rw [if_pos ⟨e.1, e.2, by rw [RegFile.win_write32]; exact hv⟩]
    rw [hh, if_pos e, if_pos ⟨by omega, by omega⟩]
    have : (BitVec.setWidth 64 (v.extractLsb' 32 32)).getLsbD (k - 8 * (off + 4)) = v.getLsbD (k - 8 * off) := by
      rw [BitVec.getLsbD_setWidth, BitVec.getLsbD_extractLsb', show 32 + (k - 8 * (off + 4)) = k - 8 * off by omega]
      simp [show k - 8 * (off + 4) < 32 by omega, show k - 8 * (off + 4) < 64 by omega]
    rw [this]
  · rw [if_neg (fun e2 => e ⟨e2.1, e2.2.1⟩), RegFile.spaceBit_write32]
    by_cases e2 : 8 * off ≤ k ∧ k < 8 * (off + 4)
    · have hv : r.win.holds (k / 8) := by unfold Windows.holds; unfold Accepts at h; omega
      rw [if_pos ⟨e2.1, e2.2, hv⟩] at hl ⊢
      rw [hl, if_pos e2, if_pos ⟨by omega, by omega⟩]
      have : (BitVec.setWidth 64 (v.extractLsb' 0 32)).getLsbD (k - 8 * off) = v.getLsbD (k - 8 * off) := by
        rw [BitVec.getLsbD_setWidth, BitVec.getLsbD_extractLsb', Nat.zero_add]
        simp [show k - 8 * off < 32 by omega, show k - 8 * off < 64 by omega]
      rw [this]
    · rw [if_neg (fun e3 => e2 ⟨e3.1, e3.2.1⟩), if_neg (by omega)]

/-- A bit with both masks 0 keeps its value in a masked write. -/
theorem maskedBit_readOnly (p : Params) (r : RegFile) (off n : Nat) (v : Word64) (k : Nat) (h : rwByte p (k / 8) = 0)
    (h1 : rw1cByte (k / 8) = 0) : maskedBit p r off n v k = r.spaceBit k := by
  unfold maskedBit; rw [h, h1]; simp

/-- A bit outside the access keeps its value in a masked write. -/
theorem maskedBit_outside (p : Params) (r : RegFile) (off n : Nat) (v : Word64) (k : Nat)
    (h : k < 8 * off ∨ 8 * (off + n) ≤ k) : maskedBit p r off n v k = r.spaceBit k := by
  unfold maskedBit; rw [if_neg (by omega)]

/-- Changes inside some spans are changes inside more spans. -/
theorem OnlyBits.mono {r r' : RegFile} {a b : List (Nat × Nat)} (h : OnlyBits r r' a) (hab : ∀ x ∈ a, x ∈ b) :
    OnlyBits r r' b := ⟨h.1, fun k hk => h.2 k fun sp hsp => hk sp (hab sp hsp)⟩

theorem OnlyBits.refl (r : RegFile) (a : List (Nat × Nat)) : OnlyBits r r a := ⟨rfl, fun _ _ => rfl⟩

theorem OnlyBits.trans {r r' r'' : RegFile} {a : List (Nat × Nat)} (h : OnlyBits r r' a) (h' : OnlyBits r' r'' a) :
    OnlyBits r r'' a := ⟨h'.1.trans h.1, fun k hk => (h'.2 k hk).trans (h.2 k hk)⟩

theorem onlyBits_setFlag (r : RegFile) (f : Flag) (b : Bool) : OnlyBits r (r.setFlag f b) [f.span] := by
  refine ⟨RegFile.win_write32 _ _ _, fun k hk => ?_⟩
  have := hk f.span (by simp)
  rw [RegFile.spaceBit_setFlag, if_neg]
  unfold Flag.span at this
  omega

theorem onlyBits_writeReg64 (r : RegFile) (x : Reg) (v : Word64) (h : x.size = 8) :
    OnlyBits r (r.write64 x.off v) [x.span] := by
  refine ⟨RegFile.win_write64 _ _ _, fun k hk => ?_⟩
  have := hk x.span (by simp)
  unfold Reg.span at this
  rw [h] at this
  rw [RegFile.spaceBit_writeReg64 _ _ _ _ h, if_neg (by omega)]

theorem onlyBits_writeReg32 (r : RegFile) (x : Reg) (v : Word32) (h : x.size = 4) :
    OnlyBits r (r.write32 x.off v) [x.span] := by
  refine ⟨RegFile.win_write32 _ _ _, fun k hk => ?_⟩
  have := hk x.span (by simp)
  unfold Reg.span at this
  rw [h] at this
  rw [RegFile.spaceBit_writeReg32 _ _ _ _ h, if_neg (by omega)]

end Sys2Proof.Machine
end

