-- ==== Sys2Proof/Laws/Mmio.lean ====
section
/-! SUPPORT. MMIO writes: the masked commit, and which handler each accepted write runs. -/

namespace Sys2Proof.Machine

/-- An MMIO write is of 4 or 8 bytes. -/
theorem writeOf_size {i : Instr} {off n : Nat} {v : Word64} (h : writeOf i = some (off, n, v)) : n = 4 ∨ n = 8 := by
  unfold writeOf at h
  split at h <;> simp_all

/-- An accepted MMIO write is the masked commit of R242 and then the handlers. -/
theorem exec_write {s : State} {i : Instr} {off n : Nat} {v : Word64} (h : writeOf i = some (off, n, v))
    (ha : Accepts s.regs.win off n) :
    ∃ after, BitsAre s.regs after (maskedBit s.params s.regs off n v) ∧
      exec i s = .next (runHandlers s.regs after off n v (s.withRegs after)) := by
  unfold writeOf at h
  split at h
  · next o w =>
    simp only [Option.some.injEq, Prod.mk.injEq] at h
    obtain ⟨rfl, rfl, rfl⟩ := h
    refine ⟨s.regs.semWrite32 s.params o.toNat w, ⟨RegFile.win_semWrite32 _ _ _ _, fun k => RegFile.spaceBit_semWrite32 _ _ _ _ _ ha⟩, ?_⟩
    show Host.Outcome.next (mmioWrite32 s o.toNat w) = _
    rw [mmioWrite32, if_pos ((accepted_four _ _).mpr ha)]
  · next o w =>
    simp only [Option.some.injEq, Prod.mk.injEq] at h
    obtain ⟨rfl, rfl, rfl⟩ := h
    refine ⟨s.regs.semWrite64 s.params o.toNat w, ⟨RegFile.win_semWrite64 _ _ _ _, fun k => RegFile.spaceBit_semWrite64 _ _ _ _ _ ha⟩, ?_⟩
    show Host.Outcome.next (mmioWrite64 s o.toNat w) = _
    rw [mmioWrite64, if_pos ((accepted_eight _ _).mpr ha)]
  · cases h

/-- A write that overlaps no register with a handler runs none. -/
theorem runHandlers_plain (before after : RegFile) (off n : Nat) (v : Word64) (s : State)
    (h : ∀ x ∈ handlerRegs, off + n ≤ x.off ∨ x.off + x.size ≤ off) : runHandlers before after off n v s = s := by
  have hno : ∀ x ∈ handlerRegs, overlaps x off n = false := by
    intro x hx
    have := h x hx
    simp [overlaps]
    omega
  simp only [handlerRegs, List.mem_cons, List.not_mem_nil, or_false, forall_eq_or_imp, forall_eq] at hno
  simp [runHandlers, onOverlap, hno]

theorem runHandlers_fsts (before after : RegFile) (off n : Nat) (v : Word64) (s : State)
    (h : (off = 0x034 ∧ n = 4) ∨ (off = 0x030 ∧ n = 8)) : runHandlers before after off n v s = dropFaultPending s := by
  rcases h with ⟨rfl, rfl⟩ | ⟨rfl, rfl⟩ <;> simp [runHandlers, onOverlap, overlaps]

theorem runHandlers_fectl (before after : RegFile) (off n : Nat) (v : Word64) (s : State)
    (h : off = 0x038 ∧ (n = 4 ∨ n = 8)) :
    runHandlers before after off n v s = deliverOnUnmask s .fault (before.flag .feIm) (after.flag .feIm) := by
  obtain ⟨rfl, rfl | rfl⟩ := h <;> simp [runHandlers, onOverlap, overlaps]

theorem runHandlers_iectl (before after : RegFile) (off n : Nat) (v : Word64) (s : State)
    (h : off = 0x0A0 ∧ (n = 4 ∨ n = 8)) :
    runHandlers before after off n v s = deliverOnUnmask s .invCompletion (before.flag .ieIm) (after.flag .ieIm) := by
  obtain ⟨rfl, rfl | rfl⟩ := h <;> simp [runHandlers, onOverlap, overlaps]

theorem runHandlers_ics (before after : RegFile) (off n : Nat) (v : Word64) (s : State)
    (h : (off = 0x09C ∧ n = 4) ∨ (off = 0x098 ∧ n = 8)) :
    runHandlers before after off n v s = icsHandler (before.flag .iwc) (after.flag .iwc) s := by
  rcases h with ⟨rfl, rfl⟩ | ⟨rfl, rfl⟩ <;> simp [runHandlers, onOverlap, overlaps]

theorem runHandlers_frcdHi (before after : RegFile) (off n : Nat) (v : Word64) (s : State)
    (h : (off = 0xE78 ∧ (n = 4 ∨ n = 8)) ∨ (off = 0xE7C ∧ n = 4)) :
    runHandlers before after off n v s = frcdHiHandler (before.flag .frcdF) (after.flag .frcdF) s := by
  rcases h with ⟨rfl, rfl | rfl⟩ | ⟨rfl, rfl⟩ <;> simp [runHandlers, onOverlap, overlaps]

theorem runHandlers_ccmd (before after : RegFile) (off n : Nat) (v : Word64) (s : State)
    (h : (off = 0x028 ∧ (n = 4 ∨ n = 8)) ∨ (off = 0x02C ∧ n = 4)) :
    runHandlers before after off n v s = ccmdHandler (after.read64 0x028) s := by
  rcases h with ⟨rfl, rfl | rfl⟩ | ⟨rfl, rfl⟩ <;> simp [runHandlers, onOverlap, overlaps]

theorem runHandlers_iotlb (before after : RegFile) (off n : Nat) (v : Word64) (s : State)
    (h : (off = 0xE58 ∧ (n = 4 ∨ n = 8)) ∨ (off = 0xE5C ∧ n = 4)) :
    runHandlers before after off n v s = iotlbHandler (after.read64 0xE58) s := by
  rcases h with ⟨rfl, rfl | rfl⟩ | ⟨rfl, rfl⟩ <;> simp [runHandlers, onOverlap, overlaps]

theorem runHandlers_iqt (before after : RegFile) (off n : Nat) (v : Word64) (s : State)
    (h : (off = 0x088 ∧ (n = 4 ∨ n = 8)) ∨ (off = 0x08C ∧ n = 4)) :
    runHandlers before after off n v s = iqtHandler s := by
  rcases h with ⟨rfl, rfl | rfl⟩ | ⟨rfl, rfl⟩ <;> simp [runHandlers, onOverlap, overlaps]

theorem runHandlers_gcmd (before after : RegFile) (n : Nat) (v : Word64) (s : State) (h : n = 4 ∨ n = 8) :
    runHandlers before after 0x018 n v s = gcmdHandler (written32 0x018 n v 0x018) s := by
  rcases h with rfl | rfl <;> simp [runHandlers, onOverlap, overlaps]

/-- The bits that a write at GCMD's own offset hands to the GCMD handler are the low 32 bits of its value (R250). -/
theorem written32_gcmd (n : Nat) (v : Word64) (h : n = 4 ∨ n = 8) : written32 0x018 n v 0x018 = v.extractLsb' 0 32 := by
  have e : ∀ k, k < 4 → writtenByte 0x018 n v (0x018 + k) = byteOf (v.extractLsb' 0 32) k := by
    intro k hk
    rw [writtenByte, if_pos ⟨by omega, by omega⟩, byteOf_low_half _ _ hk]; congr 1; omega
  have h0 := e 0 (by omega); have h1 := e 1 (by omega); have h2 := e 2 (by omega); have h3 := e 3 (by omega)
  rw [written32, show (0x018 : Nat) = 0x018 + 0 from rfl, h0, h1, h2, h3, le32_bytes]

end Sys2Proof.Machine
end

