-- ==== Sys2Proof/Laws/Ops.lean ====
section
/-! SUPPORT. The shared operations: the event message bit by bit, and what each operation leaves alone. -/

namespace Sys2Proof.Machine

/-- The message of an event is R493's, bit by bit. -/
theorem eventMsi_bits (s : State) (k : EventKind) : EventMsi s k (eventMsiAddr s k) (eventMsiData s k) := by
  refine ⟨fun i hi => ?_, fun i hi => ?_⟩
  · unfold eventMsiAddr State.ecapEim
    generalize s.reg32 k.addr = A, s.reg32 k.uaddr = U, s.reg64 .ecap = E
    have hz : (if E.getLsbD 4 = true then U.setWidth 64 <<< 32 else 0).getLsbD i
        = (decide (32 ≤ i) && (E.getLsbD 4 && U.getLsbD (i - 32))) := by
      cases E.getLsbD 4
      · simp only [Bool.false_eq_true, if_false, Bool.false_and, Bool.and_false]; exact BitVec.getLsbD_zero
      · rw [if_pos rfl, BitVec.getLsbD_shiftLeft, BitVec.getLsbD_setWidth]
        by_cases h : i < 32
        · simp [h, show ¬ 32 ≤ i by omega]
        · simp [h, hi, show 32 ≤ i by omega, show i - 32 < 64 by omega]
    have hm : ∀ j : Fin 32, (0xFFFFFFFC : BitVec 32).getLsbD j.val = decide (2 ≤ j.val) := by decide
    rw [BitVec.getLsbD_or, hz, BitVec.getLsbD_setWidth, BitVec.getLsbD_and]
    by_cases h32 : i < 32
    · have := hm ⟨i, h32⟩
      simp only at this
      rw [this]
      by_cases h2 : i < 2
      · rw [if_pos h2]; simp [show ¬ 2 ≤ i by omega, show ¬ 32 ≤ i by omega]
      · rw [if_neg h2, if_pos h32]; simp [hi, show 2 ≤ i by omega, show ¬ 32 ≤ i by omega]
    · rw [if_neg (by omega), if_neg h32, BitVec.getLsbD_of_ge A _ (by omega)]
      simp [show 32 ≤ i by omega]
  · unfold eventMsiData State.ecapEim
    generalize s.reg32 k.data = A, s.reg64 .ecap = E
    rw [BitVec.getLsbD_and, BitVec.getLsbD_or, BitVec.getLsbD_and, BitVec.getLsbD_not]
    have hm : ∀ j : Fin 32, (0xFFFF : BitVec 32).getLsbD j.val = decide (j.val < 16) ∧
        (0xC000#32).getLsbD j.val = (decide (14 ≤ j.val) && decide (j.val < 16)) ∧
        (0xFFFF0000 : BitVec 32).getLsbD j.val = decide (16 ≤ j.val) := by decide
    obtain ⟨m1, m2, m3⟩ := hm ⟨i, hi⟩
    simp only at m1 m2 m3
    have hz : (if E.getLsbD 4 = true then A &&& 0xFFFF0000 else 0).getLsbD i
        = (decide (16 ≤ i) && (E.getLsbD 4 && A.getLsbD i)) := by
      cases E.getLsbD 4
      · simp only [Bool.false_eq_true, if_false, Bool.false_and, Bool.and_false]; exact BitVec.getLsbD_zero
      · rw [if_pos rfl, BitVec.getLsbD_and, m3, Bool.true_and, Bool.and_comm]
    rw [m1, m2, hz]
    by_cases h14 : i < 14
    · rw [if_pos h14]
      simp [hi, show i < 16 by omega, show ¬ 14 ≤ i by omega, show ¬ 16 ≤ i by omega]
    · by_cases h16 : i < 16
      · rw [if_neg h14, if_pos h16]; simp [h16, show 14 ≤ i by omega, show ¬ 16 ≤ i by omega]
      · rw [if_neg h14, if_neg h16]
        simp [hi, h16, show 16 ≤ i by omega]

/-- The message of an event depends only on the event's registers and ECAP. -/
theorem EventMsi.of_eq {s u : State} {k : EventKind} {a : Word64} {d : Word32} (h : EventMsi s k a d)
    (h1 : u.reg32 k.addr = s.reg32 k.addr) (h2 : u.reg32 k.uaddr = s.reg32 k.uaddr)
    (h3 : u.reg32 k.data = s.reg32 k.data) (h4 : u.reg64 .ecap = s.reg64 .ecap) : EventMsi u k a d := by
  unfold EventMsi at *
  rw [h1, h2, h3, h4]; exact h

/-- Setting an event's pending bit leaves the registers its message is built from. -/
theorem reg_setFlag_ip (s : State) (k k' : EventKind) (b : Bool) :
    (s.setFlag k'.ip b).reg32 k.addr = s.reg32 k.addr ∧ (s.setFlag k'.ip b).reg32 k.uaddr = s.reg32 k.uaddr ∧
    (s.setFlag k'.ip b).reg32 k.data = s.reg32 k.data ∧ (s.setFlag k'.ip b).reg64 .ecap = s.reg64 .ecap := by
  refine ⟨State.reg32_setFlag_ne s k'.ip b k.addr ?_, State.reg32_setFlag_ne s k'.ip b k.uaddr ?_,
    State.reg32_setFlag_ne s k'.ip b k.data ?_, State.reg64_setFlag_ne s k'.ip b .ecap ?_⟩ <;>
    cases k <;> cases k' <;> decide

@[simp] theorem State.emit_flag (s : State) (e : OutEvent) (f : Flag) : (s.emit e).flag f = s.flag f := rfl
@[simp] theorem State.emit_reg32 (s : State) (e : OutEvent) (x : Reg) : (s.emit e).reg32 x = s.reg32 x := rfl
@[simp] theorem State.emit_reg64 (s : State) (e : OutEvent) (x : Reg) : (s.emit e).reg64 x = s.reg64 x := rfl

/-- What raising an event can do: nothing is sent and the pending bit is set, or the message is sent and it is cleared. -/
theorem raiseEvent_cases (s : State) (k : EventKind) :
    (s.flag k.im = true ∧ raiseEvent s k = s.setFlag k.ip true) ∨
    (s.flag k.im = false ∧
      raiseEvent s k = (s.emit (.sendMsi (eventMsiAddr s k) (eventMsiData s k))).setFlag k.ip false) := by
  unfold raiseEvent sendEventMsi
  cases h : s.flag k.im <;> simp

/-- What taking a primary fault can do (R485). -/
theorem recordPrimaryFault_cases (s : State) (hi lo : Word64) :
    (s.flag .ppf = true ∧ recordPrimaryFault s hi lo = s.setFlag .pfo true) ∨
    (s.flag .ppf = false ∧ recordPrimaryFault s hi lo = raiseEvent
      ((((s.setReg64 .frcdLo lo).setReg64 .frcdHi (hi ||| 1#64 <<< 63)).setFlag .ppf true).setReg32 .fsts
        (setField ((((s.setReg64 .frcdLo lo).setReg64 .frcdHi (hi ||| 1#64 <<< 63)).setFlag .ppf true).reg32 .fsts)
          8 0#8)) .fault) := by
  unfold recordPrimaryFault
  cases h : s.flag .ppf <;> simp

/-- A bit of a field assignment. -/
theorem setField_getLsbD {w n : Nat} (v : BitVec w) (lo : Nat) (x : BitVec n) (j : Nat) (hj : j < w) :
    (setField v lo x).getLsbD j = if lo ≤ j ∧ j < lo + n then x.getLsbD (j - lo) else v.getLsbD j := by
  unfold setField
  rw [BitVec.getLsbD_or, BitVec.getLsbD_and, BitVec.getLsbD_not, BitVec.getLsbD_shiftLeft, BitVec.getLsbD_shiftLeft,
    BitVec.getLsbD_setWidth, BitVec.getLsbD_setWidth, BitVec.getLsbD_allOnes]
  by_cases h1 : lo ≤ j
  · by_cases h2 : j < lo + n
    · rw [if_pos ⟨h1, h2⟩]
      simp [hj, show ¬ j < lo by omega, show j - lo < w by omega, show j - lo < n by omega]
    · rw [if_neg (fun e => h2 e.2), BitVec.getLsbD_of_ge x _ (by omega)]
      simp [hj, show ¬ j - lo < n by omega]
  · rw [if_neg (fun e => h1 e.1)]
    simp [hj, show j < lo by omega]

/-- A field of FSTS bits is a bit of the register space. -/
theorem State.reg32_getLsbD (s : State) (x : Reg) (j : Nat) (h : j < 32) :
    (s.reg32 x).getLsbD j = s.regs.spaceBit (8 * x.off + j) := RegFile.read32_getLsbD _ _ _ h

theorem State.reg64_getLsbD (s : State) (x : Reg) (j : Nat) (h : j < 64) :
    (s.reg64 x).getLsbD j = s.regs.spaceBit (8 * x.off + j) := RegFile.read64_getLsbD _ _ _ h

/-- What is left alone by the operations that only write registers and emit. -/
structure SameRest (s t : State) : Prop where
  params : t.params = s.params
  activeRtaddr : t.activeRtaddr = s.activeRtaddr
  activeIrta : t.activeIrta = s.activeIrta
  wakePending : t.wakePending = s.wakePending
  shutdown : t.shutdown = s.shutdown
  wphase : t.wphase = s.wphase
  stats : t.stats = s.stats
  inflight : t.inflight = s.inflight
  mem : t.mem = s.mem
  oracle : t.oracle = s.oracle
  agenda : t.agenda = s.agenda
  replies : t.replies = s.replies

theorem SameRest.refl (s : State) : SameRest s s := ⟨rfl, rfl, rfl, rfl, rfl, rfl, rfl, rfl, rfl, rfl, rfl, rfl⟩

theorem SameRest.trans {s t u : State} (h : SameRest s t) (h' : SameRest t u) : SameRest s u := by
  cases h; cases h'; constructor <;> simp_all

/-- A state that differs in nothing but registers, diagnostic code and outputs, written as an update. -/
theorem SameRest.eq {s t : State} (h : SameRest s t) :
    t = { s with regs := t.regs, diag := t.diag, outputs := t.outputs } := by
  cases h; cases t; simp_all

theorem sameRest_withRegs (s : State) (r : RegFile) : SameRest s (s.withRegs r) := by constructor <;> rfl
theorem sameRest_setFlag (s : State) (f : Flag) (b : Bool) : SameRest s (s.setFlag f b) := by constructor <;> rfl
theorem sameRest_setReg64 (s : State) (x : Reg) (v : Word64) : SameRest s (s.setReg64 x v) := by constructor <;> rfl
theorem sameRest_setReg32 (s : State) (x : Reg) (v : Word32) : SameRest s (s.setReg32 x v) := by constructor <;> rfl
theorem sameRest_emit (s : State) (e : OutEvent) : SameRest s (s.emit e) := by constructor <;> rfl
theorem sameRest_withDiag (s : State) (d : Diag) : SameRest s (s.withDiag d) := by constructor <;> rfl

theorem sameRest_raiseEvent (s : State) (k : EventKind) : SameRest s (raiseEvent s k) := by
  rcases raiseEvent_cases s k with ⟨-, h⟩ | ⟨-, h⟩ <;> rw [h]
  · exact sameRest_setFlag _ _ _
  · exact (sameRest_emit _ _).trans (sameRest_setFlag _ _ _)

theorem diag_raiseEvent (s : State) (k : EventKind) : (raiseEvent s k).diag = s.diag := by
  rcases raiseEvent_cases s k with ⟨-, h⟩ | ⟨-, h⟩ <;> rw [h] <;> rfl

theorem sameRest_recordPrimaryFault (s : State) (hi lo : Word64) : SameRest s (recordPrimaryFault s hi lo) := by
  rcases recordPrimaryFault_cases s hi lo with ⟨-, h⟩ | ⟨-, h⟩ <;> rw [h]
  · exact sameRest_setFlag _ _ _
  · refine SameRest.trans ?_ (sameRest_raiseEvent _ _)
    refine SameRest.trans ?_ (sameRest_setReg32 _ _ _)
    refine SameRest.trans ?_ (sameRest_setFlag _ _ _)
    refine SameRest.trans ?_ (sameRest_setReg64 _ _ _)
    exact sameRest_setReg64 _ _ _

theorem diag_recordPrimaryFault (s : State) (hi lo : Word64) : (recordPrimaryFault s hi lo).diag = s.diag := by
  rcases recordPrimaryFault_cases s hi lo with ⟨-, h⟩ | ⟨-, h⟩ <;> rw [h]
  · rfl
  · simp only [diag_raiseEvent, State.setReg32_diag, State.setFlag_diag, State.setReg64_diag]

theorem sameRest_recordAtFault (s : State) (f : AtFault) (r : FaultReq) (fpd : Bool) :
    SameRest s (recordAtFault s f r fpd) := by
  unfold recordAtFault
  split
  · exact sameRest_withDiag _ _
  · exact (sameRest_withDiag _ _).trans (sameRest_recordPrimaryFault _ _ _)

theorem sameRest_recordIrFault (s : State) (f : IrFault) (sid : BitVec 16) (index : Option Nat) (fpd : Bool) :
    SameRest s (recordIrFault s f sid index fpd) := by
  unfold recordIrFault
  split
  · exact sameRest_withDiag _ _
  · exact (sameRest_withDiag _ _).trans (sameRest_recordPrimaryFault _ _ _)

theorem sameRest_recordIqError (s : State) (e : IqError) : SameRest s (recordIqError s e) :=
  (((sameRest_withDiag _ _).trans (sameRest_setFlag _ _ _)).trans (sameRest_setReg64 _ _ _)).trans
    (sameRest_raiseEvent _ _)

theorem sameRest_deliverOnUnmask (s : State) (k : EventKind) (a b : Bool) : SameRest s (deliverOnUnmask s k a b) := by
  unfold deliverOnUnmask sendEventMsi
  split
  · exact (sameRest_emit _ _).trans (sameRest_setFlag _ _ _)
  · exact SameRest.refl _

theorem sameRest_dropFaultPending (s : State) : SameRest s (dropFaultPending s) := by
  unfold dropFaultPending
  split
  · exact sameRest_setFlag _ _ _
  · exact SameRest.refl _

end Sys2Proof.Machine
end

