-- ==== Sys2Proof/Laws/PerInstr.lean ====
section
/-! SUPPORT. Statements made per instruction. TableMatch: the encoding of a well-formed operation fits its row of
spec/opcode_table.json, that is, its word ANDed with the row's mask is the row's match word (R173). -/

namespace Sys2Proof.Laws.TableMatch

open Sys2Proof.Machine

/-- The encoding of `i`, if `i` is well formed, fits its opcode-table row. A row's word lies in the first eight bytes. -/
def Statement (i : Instr) : Prop :=
  i.wellFormed = true → (le64OfList (encode i)).toNat &&& (tableRow i).2 = (tableRow i).1

/-- A word fits a row if the masked 64-bit values agree. -/
theorem of_and {v m x : Word64} (h : v &&& m = x) : v.toNat &&& m.toNat = x.toNat := by
  rw [← BitVec.toNat_and, h]

/-- A descriptor that matches a row fits it. -/
theorem of_row (d : Desc) (m x : Word64) (h : matchesRow d m x = true) :
    (le64OfList (encodeDesc d)).toNat &&& m.toNat = x.toNat := by
  refine of_and ?_
  have : le64OfList (encodeDesc d) = d.qw0 := by
    unfold encodeDesc bytes64 le64OfList
    simp only [List.cons_append, List.nil_append, List.getD_cons_zero, List.getD_cons_succ, le64_bytes]
  rw [this]; simpa [matchesRow] using h

/-- The bit that tells the two MSI formats apart (R191). -/
theorem of_format (a : Word64) (bs : List Byte) (b : Bool) (h : a.getLsbD 4 = b) :
    (le64OfList (bytes64 a ++ bs)).toNat &&& 0x10 = if b then 0x10 else 0 := by
  have : le64OfList (bytes64 a ++ bs) = a := by
    unfold bytes64 le64OfList
    simp only [List.cons_append, List.nil_append, List.getD_cons_zero, List.getD_cons_succ, le64_bytes]
  rw [this]
  have hb : a &&& 0x10 = if b then 0x10 else 0 := by
    subst h
    apply BitVec.eq_of_getLsbD_eq
    intro i hi
    have hm : ∀ j : Fin 64, (0x10 : Word64).getLsbD j.val = decide (j.val = 4) ∧ (0 : Word64).getLsbD j.val = false := by
      decide
    obtain ⟨m1, m2⟩ := hm ⟨i, hi⟩
    simp only at m1 m2
    rw [BitVec.getLsbD_and, m1]
    by_cases h4 : i = 4
    · subst h4; cases h : a.getLsbD 4 <;> simp
    · cases a.getLsbD 4
      · rw [if_neg (by decide), m2]; simp [h4]
      · rw [if_pos rfl, m1]; simp [h4]
  have := of_and hb
  cases b <;> simpa using this

/-- The first sixteen bits of bytes that begin with a 16-bit word are the word's. -/
theorem low_bits (w : BitVec 16) (bs : List Byte) (i : Nat) (h : i < 16) :
    (le64OfList (bytes16 w ++ bs)).getLsbD i = w.getLsbD i := by
  unfold bytes16 le64OfList le64 le32
  simp only [List.cons_append, List.nil_append, List.getD_cons_zero, List.getD_cons_succ, BitVec.getLsbD_append]
  by_cases h8 : i < 8
  · simp only [h8, show i < 32 by omega, if_true, decide_true, byteOf_getLsbD, Bool.true_and, Nat.mul_zero, Nat.zero_add]
  · simp only [h8, show i < 32 by omega, show i - 8 < 8 by omega, show 8 + (i - 8) = i by omega, decide_true, if_true,
      if_false, byteOf_getLsbD, Bool.true_and, Nat.mul_one]

/-- The direction and size bits of an access word (R173). -/
theorem of_access (dir size8 : Bool) (off : BitVec 12) (bs : List Byte) :
    (le64OfList (bytes16 (accessWord dir size8 off) ++ bs)).toNat &&& 0x3000 =
      (if dir then 0x2000 else 0) + (if size8 then 0x1000 else 0) := by
  have hb : le64OfList (bytes16 (accessWord dir size8 off) ++ bs) &&& 0x3000 =
      (if dir then 0x2000 else 0) + (if size8 then 0x1000 else 0) := by
    apply BitVec.eq_of_getLsbD_eq
    intro i hi
    have hm : ∀ j : Fin 64, (0x3000 : Word64).getLsbD j.val = (decide (j.val = 12) || decide (j.val = 13)) ∧
        ((if dir then 0x2000 else 0) + (if size8 then 0x1000 else 0) : Word64).getLsbD j.val =
          ((decide (j.val = 12) && size8) || (decide (j.val = 13) && dir)) := by
      cases dir <;> cases size8 <;> decide
    obtain ⟨m1, m2⟩ := hm ⟨i, hi⟩
    simp only at m1 m2
    rw [BitVec.getLsbD_and, m1, m2]
    by_cases h12 : i = 12
    · subst h12
      rw [low_bits _ _ _ (by omega)]
      cases dir <;> cases size8 <;> simp [accessWord, boolBits]
    · by_cases h13 : i = 13
      · subst h13
        rw [low_bits _ _ _ (by omega)]
        cases dir <;> cases size8 <;> simp [accessWord, boolBits]
      · simp [h12, h13]
  have := of_and hb
  cases dir <;> cases size8 <;> simpa using this

theorem mmioR32 (off : BitVec 12) : Statement (.mmioR32 off) := fun _ => of_access false false off []

theorem mmioR64 (off : BitVec 12) : Statement (.mmioR64 off) := fun _ => of_access false true off []

theorem mmioW32 (off : BitVec 12) (v : Word32) : Statement (.mmioW32 off v) := fun _ => of_access true false off (bytes32 v)

theorem mmioW64 (off : BitVec 12) (v : Word64) : Statement (.mmioW64 off v) := fun _ => of_access true true off (bytes64 v)

theorem gcmdTeSet : Statement (.gcmdTeSet) := fun _ => by decide

theorem gcmdTeClr : Statement (.gcmdTeClr) := fun _ => by decide

theorem gcmdQieSet : Statement (.gcmdQieSet) := fun _ => by decide

theorem gcmdQieClr : Statement (.gcmdQieClr) := fun _ => by decide

theorem gcmdIreSet : Statement (.gcmdIreSet) := fun _ => by decide

theorem gcmdIreClr : Statement (.gcmdIreClr) := fun _ => by decide

theorem gcmdCfiSet : Statement (.gcmdCfiSet) := fun _ => by decide

theorem gcmdCfiClr : Statement (.gcmdCfiClr) := fun _ => by decide

theorem gcmdSrtp : Statement (.gcmdSrtp) := fun _ => by decide

theorem gcmdSirtp : Statement (.gcmdSirtp) := fun _ => by decide

theorem gcmdSfl : Statement (.gcmdSfl) := fun _ => by decide

theorem gcmdEafl : Statement (.gcmdEafl) := fun _ => by decide

theorem gcmdWbf : Statement (.gcmdWbf) := fun _ => by decide

theorem dmaTranslate (sid : BitVec 16) (addr len : Word64) (flags : Perm) (atype : AddrType) : Statement (.dmaTranslate sid addr len flags atype) := fun _ => Nat.and_zero _

theorem dmaBulk (sid : BitVec 16) (flags : Perm) (addrs : List Word64) : Statement (.dmaBulk sid flags addrs) := fun _ => Nat.and_zero _

theorem irqRemapCompat (sid : BitVec 16) (msiAddr : Word64) (msiData : Word32) : Statement (.irqRemapCompat sid msiAddr msiData) := fun h => by
  have := of_format msiAddr (bytes32 msiData ++ bytes16 sid) false (by simpa [Instr.wellFormed] using h)
  simpa only [encode, tableRow, List.append_assoc, Bool.false_eq_true, if_false] using this

theorem irqRemap (sid : BitVec 16) (msiAddr : Word64) (msiData : Word32) : Statement (.irqRemap sid msiAddr msiData) := fun h => by
  have := of_format msiAddr (bytes32 msiData ++ bytes16 sid) true (by simpa [Instr.wellFormed] using h)
  simpa only [encode, tableRow, List.append_assoc, if_true] using this

theorem dscCcInv (d : Desc) : Statement (.dscCcInv d) := fun h => of_row d _ _ h

theorem dscIotlbInv (d : Desc) : Statement (.dscIotlbInv d) := fun h => of_row d _ _ h

theorem dscDevTlbInv (d : Desc) : Statement (.dscDevTlbInv d) := fun h => of_row d _ _ h

theorem dscIecInv (d : Desc) : Statement (.dscIecInv d) := fun h => of_row d _ _ h

theorem dscPIotlbInv (d : Desc) : Statement (.dscPIotlbInv d) := fun h => of_row d _ _ h

theorem dscPcInv (d : Desc) : Statement (.dscPcInv d) := fun h => of_row d _ _ h

theorem dscPDevTlbInv (d : Desc) : Statement (.dscPDevTlbInv d) := fun h => of_row d _ _ h

theorem dscInvWait (d : Desc) : Statement (.dscInvWait d) := fun h => of_row d _ _ h

theorem dscRsvd00 (d : Desc) : Statement (.dscRsvd00 d) := fun h => of_row d _ _ h

theorem dscRsvd09Odd (d : Desc) : Statement (.dscRsvd09Odd d) := fun h => of_row d _ _ h

theorem dscRsvd0A0E (d : Desc) : Statement (.dscRsvd0A0E d) := fun h => of_row d _ _ h

theorem dscRsvd0C (d : Desc) : Statement (.dscRsvd0C d) := fun h => of_row d _ _ h

theorem dscRsvdT4 (d : Desc) : Statement (.dscRsvdT4 d) := fun h => of_row d _ _ h

theorem dscRsvdT5 (d : Desc) : Statement (.dscRsvdT5 d) := fun h => of_row d _ _ h

theorem dscRsvdT6 (d : Desc) : Statement (.dscRsvdT6 d) := fun h => of_row d _ _ h

end Sys2Proof.Laws.TableMatch
end

