-- ==== Sys2Proof/Laws/Steps.lean ====
section
/-! SUPPORT. What the memory calls, the command rows, the requests, the worker and the step can do, once each. -/

namespace Sys2Proof.Machine

/-! ### Guest memory -/

/-- Right after reset memory is canonical. -/
theorem reset_mem_wf : State.reset.mem.wf := ⟨List.Pairwise.nil, fun _ h => by cases h⟩

/-- A read that supplies bytes supplies as many as were asked for. -/
theorem memRead_length {m : Memory} {o : List MemAnswer} {a : Word64} {n : Nat} {bs : List Byte}
    (h : (memRead m o a n).1 = some bs) : bs.length = n := by
  unfold memRead at h
  split at h <;> simp only [Option.some.injEq, reduceCtorEq] at h <;> subst h <;> simp [Memory.bytesAt, fitBytes]

/-- With no answer scripted a read gives memory's bytes. -/
@[simp] theorem memRead_nil (m : Memory) (a : Word64) (n : Nat) : memRead m [] a n = (some (m.bytesAt a n), []) := rfl

/-- Eight bytes of a longer list give the value that the list's first eight bytes give. -/
theorem le64OfList_congr {l l' : List Byte} (h : ∀ k < 8, l.getD k 0 = l'.getD k 0) : le64OfList l = le64OfList l' := by
  unfold le64OfList
  rw [h 0 (by omega), h 1 (by omega), h 2 (by omega), h 3 (by omega), h 4 (by omega), h 5 (by omega), h 6 (by omega),
    h 7 (by omega)]

theorem fitBytes_getD (bs : List Byte) (n k : Nat) (h : k < n) : (fitBytes bs n).getD k 0 = bs.getD k 0 := by
  simp [fitBytes, List.getD_eq_getElem?_getD, h]

theorem Memory.bytesAt_getD (m : Memory) (a : Word64) (n k : Nat) (h : k < n) :
    (m.bytesAt a n).getD k 0 = m.byteAt (a + BitVec.ofNat 64 k) := by
  simp [Memory.bytesAt, List.getD_eq_getElem?_getD, h]

theorem getD_drop (bs : List Byte) (i k : Nat) : (bs.drop i).getD k 0 = bs.getD (i + k) 0 := by
  simp [List.getD_eq_getElem?_getD]

/-- The 8-byte reads that succeed are those of `Reads64`. -/
theorem memRead64_eq_some_iff {m : Memory} {o o' : List MemAnswer} {a v : Word64} :
    memRead64 m o a = (some v, o') ↔ Reads64 m o a v o' := by
  unfold memRead64 Reads64 Honest memRead Memory.word64At
  have hb (bs : List Byte) : le64OfList (fitBytes bs 8) = le64OfList bs :=
    le64OfList_congr fun k hk => fitBytes_getD bs 8 k hk
  rcases o with _ | ⟨_ | _ | bs, o⟩ <;> simp [hb] <;> rw [and_comm, eq_comm (b := v)]

/-- The 8-byte reads that fail are those that the memory system fails. -/
theorem memRead64_eq_none_iff {m : Memory} {o o' : List MemAnswer} {a : Word64} :
    memRead64 m o a = (none, o') ↔ Fails o o' := by
  unfold memRead64 Fails memRead
  rcases o with _ | ⟨_ | _ | bs, o⟩ <;> simp

/-- The 16-byte reads that succeed are those of `Reads128`. -/
theorem memRead128_eq_some_iff {m : Memory} {o o' : List MemAnswer} {a q0 q1 : Word64} :
    memRead128 m o a = (some (q0, q1), o') ↔ Reads128 m o a q0 q1 o' := by
  have h0 : le64OfList (m.bytesAt a 16) = le64OfList (m.bytesAt a 8) :=
    le64OfList_congr fun k hk => by rw [Memory.bytesAt_getD _ _ _ _ (by omega), Memory.bytesAt_getD _ _ _ _ hk]
  have h1 : le64OfList ((m.bytesAt a 16).drop 8) = le64OfList (m.bytesAt (a + 8) 8) :=
    le64OfList_congr fun k hk => by
      rw [getD_drop, Memory.bytesAt_getD _ _ _ _ (by omega), Memory.bytesAt_getD _ _ _ _ hk, BitVec.ofNat_add,
        BitVec.add_assoc]; rfl
  have hb (bs : List Byte) : le64OfList (fitBytes bs 16) = le64OfList bs ∧
      le64OfList ((fitBytes bs 16).drop 8) = le64OfList (bs.drop 8) :=
    ⟨le64OfList_congr fun k hk => fitBytes_getD bs 16 k (by omega),
      le64OfList_congr fun k hk => by rw [getD_drop, getD_drop, fitBytes_getD bs 16 _ (by omega)]⟩
  unfold memRead128 Reads128 Honest memRead Memory.word64At
  rcases o with _ | ⟨_ | _ | bs, o⟩ <;> simp [h0, h1, hb] <;>
    rw [and_comm, eq_comm (b := q0), eq_comm (b := q1)]

/-- The 16-byte reads that fail are those that the memory system fails. -/
theorem memRead128_eq_none_iff {m : Memory} {o o' : List MemAnswer} {a : Word64} :
    memRead128 m o a = (none, o') ↔ Fails o o' := by
  unfold memRead128 Fails memRead
  rcases o with _ | ⟨_ | _ | bs, o⟩ <;> simp

/-- What a write call can do: it fails and leaves memory, or it stores the bytes. -/
theorem memWrite_cases (s : State) (a : Word64) (bs : List Byte) :
    (writeFails s.oracle = true ∧
      memWrite s a bs = ((s.emit (.writeGuest a bs)).withOracle s.oracle.tail, false)) ∨
    (writeFails s.oracle = false ∧
      memWrite s a bs = (((s.emit (.writeGuest a bs)).withOracle s.oracle.tail).withMem (s.mem.store a bs), true)) := by
  unfold memWrite
  cases h : writeFails s.oracle <;> simp

/-- A write call keeps memory canonical. -/
theorem memWrite_wf (s : State) (a : Word64) (bs : List Byte) (h : s.mem.wf) : (memWrite s a bs).1.mem.wf := by
  rcases memWrite_cases s a bs with ⟨-, e⟩ | ⟨-, e⟩ <;> rw [e]
  · exact h
  · exact Memory.store_wf _ _ _ h

/-! ### Requests -/

/-- What the record step can do. -/
theorem recordWalked_cases (s : State) (req : Request) (w : Walked) :
    (∃ r, w = .done r ∧ recordWalked s req w = s.reply ⟨some req.instr, r⟩) ∨
    (∃ earlier, w = .abort earlier ∧ recordWalked s req w = s.reply ⟨some req.instr, .fail earlier⟩) ∨
    (∃ f r fpd earlier, w = .atFault f r fpd earlier ∧
      recordWalked s req w = (recordAtFault s f r fpd).reply ⟨some req.instr, .fail earlier⟩) ∨
    (∃ f sid index fpd, w = .irFault f sid index fpd ∧
      recordWalked s req w = (recordIrFault s f sid index fpd).reply ⟨some req.instr, .fail []⟩) := by
  cases w with
  | done r => exact .inl ⟨r, rfl, rfl⟩
  | abort earlier => exact .inr (.inl ⟨earlier, rfl, rfl⟩)
  | atFault f r fpd earlier => exact .inr (.inr (.inl ⟨f, r, fpd, earlier, rfl, rfl⟩))
  | irFault f sid index fpd => exact .inr (.inr (.inr ⟨f, sid, index, fpd, rfl, rfl⟩))

/-- A request's operation runs exactly when its precondition holds. -/
theorem exec_requestOf {i : Instr} {r : Request} (h : requestOf i = some r) (s : State) :
    r.instr = i ∧ exec i s = if r.pre then .next (runRequest s r) else .refused .precondition := by
  cases i <;> simp only [requestOf, reduceCtorEq, Option.some.injEq] at h <;> subst h <;> exact ⟨rfl, rfl⟩

/-- What the snapshot step of a later element can do: it replaces a snapshot in flight. -/
theorem snapshotInFlight_next {s t : State} {k : Nat} (h : snapshotInFlight s k = .next t) :
    ∃ x, s.inflight[k]? = some x ∧ t = s.withInflight (s.inflight.set k { x with snap := takeSnap s }) := by
  unfold snapshotInFlight at h
  split at h
  · exact ⟨_, ‹_›, (Host.Outcome.next.inj h).symm⟩
  · cases h

/-- What a walk step can do: it uses up memory answers and notes how the walk ends. -/
theorem walkInFlight_next {s t : State} {k : Nat} (h : walkInFlight s k = .next t) :
    ∃ x, s.inflight[k]? = some x ∧ x.walked = none ∧
      let w := walkPart s.params s.mem x.snap x.outs s.oracle x.request
      t = (s.withOracle w.2).withInflight (s.inflight.set k { x with walked := some w.1 }) := by
  unfold walkInFlight at h
  split at h
  · exact ⟨_, ‹_›, rfl, (Host.Outcome.next.inj h).symm⟩
  · cases h

/-- What a record step can do: a bulk call goes on to its next element, or the request is recorded and answered. -/
theorem recordInFlight_next {s t : State} {k : Nat} (h : recordInFlight s k = .next t) :
    ∃ x w, s.inflight[k]? = some x ∧ x.walked = some w ∧
      ((∃ outs, unfinished x.request w = some outs ∧
          t = s.withInflight (s.inflight.set k { x with outs := outs, walked := none })) ∨
        (unfinished x.request w = none ∧ t = recordWalked (s.withInflight (s.inflight.eraseIdx k)) x.request w)) := by
  unfold recordInFlight at h
  split at h
  · split at h
    · exact ⟨_, _, ‹_›, rfl, .inl ⟨_, ‹_›, (Host.Outcome.next.inj h).symm⟩⟩
    · exact ⟨_, _, ‹_›, rfl, .inr ⟨‹_›, (Host.Outcome.next.inj h).symm⟩⟩
  · cases h

/-! ### The worker -/

/-- What looking for work can do (R433 to R435). -/
theorem checkQueue_cases (s : State) :
    checkQueue s = s.withPhase .idle ∨
    (∃ e, batchCheck (queueSnap s) = some e ∧ checkQueue s = stopBatch s e) ∨
    (s.flag .qies = true ∧ s.flag .iqe = false ∧ (queueSnap s).head ≠ (queueSnap s).tail ∧
      batchCheck (queueSnap s) = none ∧ checkQueue s = s.withPhase (.fetching (queueSnap s))) := by
  unfold checkQueue
  by_cases h1 : s.flag .qies = false ∨ s.flag .iqe = true
  · rw [if_pos h1]; exact .inl rfl
  · rw [if_neg h1]
    by_cases h2 : (queueSnap s).head = (queueSnap s).tail
    · rw [if_pos h2]; exact .inl rfl
    · rw [if_neg h2]
      cases hb : batchCheck (queueSnap s) with
      | some e => exact .inr (.inl ⟨e, rfl, rfl⟩)
      | none =>
        refine .inr (.inr ⟨?_, ?_, h2, rfl, rfl⟩)
        · cases hq : s.flag .qies
          · exact absurd (Or.inl hq) h1
          · rfl
        · cases hq : s.flag .iqe
          · rfl
          · exact absurd (Or.inr hq) h1

/-- What the worker's next step can do. -/
theorem workerStep_cases (s : State) :
    (s.wphase = .idle ∧ workerStep s = .next (workerIdle s)) ∨
    (∃ q, s.wphase = .fetching q ∧ workerStep s = .next (workerFetch s q)) ∨
    (∃ q bs, s.wphase = .fetched q bs ∧ workerStep s = .next (workerAdvance s q bs)) ∨
    (∃ q ds k, s.wphase = .dispatching q ds k .signal ∧ workerStep s = .next (workerSignal s q ds k)) ∨
    (∃ q ds k d, s.wphase = .dispatching q ds k .start ∧ ds[k]? = some d ∧ workerStep s = exec (decodeDesc d) s) ∨
    (∃ q ds k, s.wphase = .dispatching q ds k .start ∧ ds[k]? = none ∧ workerStep s = .next (workerNext s)) ∨
    (s.wphase = .exited ∧ workerStep s = .next s) := by
  unfold workerStep workerMove
  split
  · next h =>
    split at h <;> try cases h
    next ph =>
      split at h <;> cases h
      next hd => exact .inr (.inr (.inr (.inr (.inl ⟨_, _, _, _, ph, hd, rfl⟩))))
  · next h =>
    split at h
    · next ph => cases h; exact .inl ⟨ph, rfl⟩
    · next ph => cases h; exact .inr (.inl ⟨_, ph, rfl⟩)
    · next ph => cases h; exact .inr (.inr (.inl ⟨_, _, ph, rfl⟩))
    · next ph => cases h; exact .inr (.inr (.inr (.inl ⟨_, _, _, ph, rfl⟩)))
    · next ph =>
      split at h
      · cases h
      · next hd => cases h; exact .inr (.inr (.inr (.inr (.inr (.inl ⟨_, _, _, ph, hd, rfl⟩)))))
    · next ph => cases h; exact .inr (.inr (.inr (.inr (.inr (.inr ⟨ph, rfl⟩)))))

/-! ### The step -/

/-- What a step is: the worker's own, or the next entry of the schedule. -/
theorem step_cases (s : State) :
    (s.agenda = [] ∧ step s = workerStep s) ∨
    ∃ e rest, s.agenda = e :: rest ∧ step s = runEvent e (s.withAgenda rest) := by
  unfold step
  cases h : s.agenda with
  | nil => exact .inl ⟨rfl, rfl⟩
  | cons e rest => exact .inr ⟨e, rest, rfl, rfl⟩

end Sys2Proof.Machine
end

