-- ==== Sys2Proof/Tests/Slice0.lean ====
section
/-! SUPPORT. The model's own tests: ill-formed terms refused, words written out from the spec's encodings decoded, the
spec's test vectors (95_test_vectors.md, cited by their names), one step each, and for every statement with hypotheses a
concrete state that meets them. -/

open Sys2Proof Sys2Proof.Machine

namespace Sys2Proof.Tests

set_option Elab.async false

/-! ### Helpers -/

def okWith (o : Out) (f : State → Bool) : Bool :=
  match o with
  | .next t => f t
  | _ => false

def refusedWith (o : Out) (r : Refusal) : Bool :=
  match o with
  | .refused r' => r' == r
  | _ => false

/-- What the last call returned. -/
def lastResult (t : State) : Option Result := t.replies.getLast?.map (·.result)

/-- Memory with quadwords stored at addresses. -/
def withWords (m : Memory) (l : List (Word64 × Word64)) : Memory := l.foldl (fun m r => m.store r.1 (bytes64 r.2)) m

/-- The image M0. -/
def imageM0 : Memory :=
  withWords [] [(0x10000, 0x11001), (0x11000, 0x12001), (0x11008, 0x502), (0x12000, 0x13003), (0x13000, 0x14003),
    (0x14000, 0x15003), (0x15008, 0x9003)]

/-- The state T1: RTADDR = 0x10000, GSTS = 0xC0000000, M0 in memory. -/
def t1 : State :=
  { (State.reset.setReg64 .rtaddr 0x10000).setReg32 .gsts 0xC0000000 with activeRtaddr := 0x10000, mem := imageM0 }

/-- T1 with further quadwords in memory. -/
def t1With (l : List (Word64 × Word64)) : State := { t1 with mem := withWords imageM0 l }

/-- The state I1, its IRTE 5 with the given quadwords. -/
def i1With (q0 q1 : Word64) : State :=
  { (State.reset.setReg64 .irta 0x30803).setReg32 .gsts 0x03000000 with
    activeIrta := 0x30803, mem := withWords [] [(0x30050, q0), (0x30058, q1)] }

def i1 : State := i1With 0x0000000300410001 0

/-- The state Q1 with the queue registers IQH and IQT. -/
def q1With (head tail : Word64) : State :=
  (((State.reset.setReg64 .iqa 0x40000).setReg32 .gsts 0x04000000).setReg64 .iqh head).setReg64 .iqt tail

/-- The snapshot of Q1's queue. -/
def snapQ1 (head tail : Nat) : QSnap := ⟨0x40000, 0x1000, false, 0, head, tail⟩

/-- Q1 about to dispatch the one descriptor `d`. -/
def dispatching (d : Desc) (stage : Stage) : State :=
  { q1With 0x10 0x10 with wphase := .dispatching (snapQ1 0 0x10) [d] 0 stage }

/-- The wait descriptor W. -/
def waitW : Desc := ⟨0x000000AB00000035, 0x50000⟩

def permR : Perm := ⟨true, false⟩
def permW : Perm := ⟨false, true⟩
def permRW : Perm := ⟨true, true⟩

/-! ### Ill-formed terms are refused -/

/-- R290: len = 0 (T1v37). -/
theorem test_illFormed_length : (Instr.dmaTranslate 0 0x1000 0 permR .untranslated).wellFormed = false := by decide
/-- R290, D37: the range passes the end of the 64-bit space by one byte. -/
theorem test_illFormed_range :
    (Instr.dmaTranslate 0 0xFFFFFFFFFFFFFFFF 2 permR .untranslated).wellFormed = false ∧
    (Instr.dmaTranslate 0 0xFFFFFFFFFFFFFFFF 1 permR .untranslated).wellFormed = true := by decide
/-- R290: empty flags. -/
theorem test_illFormed_flags : (Instr.dmaTranslate 0 0x1000 1 ⟨false, false⟩ .untranslated).wellFormed = false := by
  decide
/-- R330: no address; an address that is not page-aligned (T1v38); empty flags. -/
theorem test_illFormed_bulk :
    (Instr.dmaBulk 0 permR []).wellFormed = false ∧ (Instr.dmaBulk 0 permR [0x1000, 0x1800]).wellFormed = false ∧
    (Instr.dmaBulk 0 ⟨false, false⟩ [0x1000]).wellFormed = false ∧
    (Instr.dmaBulk 0 permR [0x1000, 0x2000]).wellFormed = true := by decide
/-- R191: the format flag is bit 4. -/
theorem test_illFormed_irq :
    (Instr.irqRemap 0 0xFEE00000 0).wellFormed = false ∧ (Instr.irqRemapCompat 0 0xFEE00010 0).wellFormed = false := by
  decide
/-- R173, R211: a descriptor whose type is another row's, one for each of the fifteen rows. -/
theorem test_illFormed_descriptors :
    ([.dscCcInv ⟨2, 0⟩, .dscIotlbInv ⟨1, 0⟩, .dscDevTlbInv ⟨0x203, 0⟩, .dscIecInv ⟨5, 0⟩, .dscPIotlbInv ⟨7, 0⟩,
      .dscPcInv ⟨6, 0⟩, .dscPDevTlbInv ⟨9, 0⟩, .dscInvWait ⟨0x205, 0⟩, .dscRsvd00 ⟨0x200, 0⟩, .dscRsvd09Odd ⟨8, 0⟩,
      .dscRsvd0A0E ⟨0xC, 0⟩, .dscRsvd0C ⟨0xE, 0⟩, .dscRsvdT4 ⟨0x400, 0⟩, .dscRsvdT5 ⟨0x600, 0⟩,
      .dscRsvdT6 ⟨0xA00, 0⟩] : List Instr).map Instr.wellFormed = List.replicate 15 false := by decide

/-! ### Words written out from the spec's encodings -/

/-- R173: `dir << 13 | size8 << 12 | off`; reads of 0x038 and 0x018, writes of 0x044 and 0x020 (P1 step 1). -/
theorem test_decode_mmio :
    decode (.call .mmio) [0x38, 0x00] = .ok (.mmioR32 0x038) ∧
    decode (.call .mmio) [0x18, 0x10] = .ok (.mmioR64 0x018) ∧
    decode (.call .mmio) [0x44, 0x20, 0x01, 0x00, 0x00, 0x00] = .ok (.mmioW32 0x044 0x1) ∧
    decode (.call .mmio) [0x20, 0x30, 0x00, 0x00, 0x01, 0, 0, 0, 0, 0] = .ok (.mmioW64 0x020 0x10000) := by decide
/-- R171, R173: every bit of the offset, and what is no access word. -/
theorem test_decode_mmio_edges :
    decode (.call .mmio) [0xFF, 0x0F] = .ok (.mmioR32 0xFFF) ∧ decode (.call .mmio) [0x00, 0x40] = .error .badAccessWord ∧
    decode (.call .mmio) [0x00, 0x20] = .error .badLength ∧ decode (.call .mmio) [0x00] = .error .badLength := by decide
/-- R172: the command bits of R172, one at a time; a word of zeros asks for the four clears. -/
theorem test_decode_gcmd :
    Instr.gcmdTeSet ∈ decodeGcmd 0x80000000 ∧ Instr.gcmdSrtp ∈ decodeGcmd 0x40000000 ∧
    Instr.gcmdSfl ∈ decodeGcmd 0x20000000 ∧ Instr.gcmdEafl ∈ decodeGcmd 0x10000000 ∧
    Instr.gcmdWbf ∈ decodeGcmd 0x08000000 ∧ Instr.gcmdQieSet ∈ decodeGcmd 0x04000000 ∧
    Instr.gcmdIreSet ∈ decodeGcmd 0x02000000 ∧ Instr.gcmdSirtp ∈ decodeGcmd 0x01000000 ∧
    Instr.gcmdCfiSet ∈ decodeGcmd 0x00800000 ∧
    decodeGcmd 0 = [.gcmdQieClr, .gcmdIreClr, .gcmdCfiClr, .gcmdTeClr] := by decide
/-- The model's packing of the DMA calls (R173 gives them no word): T1v2 and T1v35. -/
theorem test_decode_dma :
    decode (.call .translate) [0x00, 0x00, 0x34, 0x12, 0, 0, 0, 0, 0, 0, 0x0F, 0, 0, 0, 0, 0, 0, 0, 0, 0] =
      .ok (.dmaTranslate 0 0x1234 0x10 permR .untranslated) ∧
    decode (.call .bulk) [0x00, 0x00, 0x00, 0x00, 0x10, 0, 0, 0, 0, 0, 0, 0x00, 0x20, 0, 0, 0, 0, 0, 0] =
      .ok (.dmaBulk 0 permR [0x1000, 0x2000]) ∧
    decode (.call .translate) [0, 0, 0, 0, 0, 0, 0, 0, 0, 0, 0, 0, 0, 0, 0, 0, 0, 0, 4, 0] = .error .badFlags ∧
    decode (.call .translate) [0, 0, 0, 0, 0, 0, 0, 0, 0, 0, 0, 0, 0, 0, 0, 0, 0, 0, 0, 3] = .error .badAddrType ∧
    decode (.call .bulk) [0, 0, 0, 1] = .error .badLength := by decide
/-- R191: I1v1 (remappable) and I1v22 (compatibility). -/
theorem test_decode_irq :
    decode (.call .irq) [0xB0, 0x00, 0xE0, 0xFE, 0, 0, 0, 0, 0, 0, 0, 0, 0x00, 0x01] = .ok (.irqRemap 0x0100 0xFEE000B0 0) ∧
    decode (.call .irq) [0x00, 0x00, 0xE0, 0xFE, 0, 0, 0, 0, 0x31, 0, 0, 0, 0x00, 0x01] =
      .ok (.irqRemapCompat 0x0100 0xFEE00000 0x31) := by decide
/-- R211: `type = {qw0[11:9], qw0[3:0]}`, one word for every row, and W of section 7. -/
theorem test_decode_descriptors :
    ([0x001, 0x002, 0x003, 0x004, 0x005, 0x006, 0x007, 0x008, 0x000, 0x00F, 0x00A, 0x00E, 0x00C, 0x205, 0x401,
      0x800] : List Word64).map (fun v => decodeDesc ⟨v, 0⟩) =
    [.dscCcInv ⟨1, 0⟩, .dscIotlbInv ⟨2, 0⟩, .dscDevTlbInv ⟨3, 0⟩, .dscIecInv ⟨4, 0⟩, .dscInvWait ⟨5, 0⟩,
      .dscPIotlbInv ⟨6, 0⟩, .dscPcInv ⟨7, 0⟩, .dscPDevTlbInv ⟨8, 0⟩, .dscRsvd00 ⟨0, 0⟩, .dscRsvd09Odd ⟨0xF, 0⟩,
      .dscRsvd0A0E ⟨0xA, 0⟩, .dscRsvd0A0E ⟨0xE, 0⟩, .dscRsvd0C ⟨0xC, 0⟩, .dscRsvdT4 ⟨0x205, 0⟩, .dscRsvdT5 ⟨0x401, 0⟩,
      .dscRsvdT6 ⟨0x800, 0⟩] ∧
    decode .ring [0x35, 0, 0, 0, 0xAB, 0, 0, 0, 0, 0, 0x05, 0, 0, 0, 0, 0] = .ok (.dscInvWait waitW) := by decide
/-- The odd types from 0x09 to 0x0F and the bits outside the type (R211): none of them moves a row. -/
theorem test_decode_type_bits :
    ([0x009, 0x00B, 0x00D, 0x00F] : List Word64).map (fun v => decodeDesc ⟨v, 0⟩) =
      [.dscRsvd09Odd ⟨9, 0⟩, .dscRsvd09Odd ⟨0xB, 0⟩, .dscRsvd09Odd ⟨0xD, 0⟩, .dscRsvd09Odd ⟨0xF, 0⟩] ∧
    decodeDesc ⟨0xFFFFFFFFFFFFF1F2, 0xFFFFFFFFFFFFFFFF⟩ = .dscIotlbInv ⟨0xFFFFFFFFFFFFF1F2, 0xFFFFFFFFFFFFFFFF⟩ := by
  decide
/-- Table words (R173): one of each space. -/
theorem test_tableWords :
    decodeTableWord 16 0x3000 = some (.mmioW64 0 0) ∧ decodeTableWord 32 0x04000000 = some .gcmdQieSet ∧
    decodeTableWord 0 0 = some (.dmaTranslate 0 0 1 permR .untranslated) ∧
    decodeTableWord 8 0x10 = some (.irqRemap 0 0x10 0) ∧ decodeTableWord 16 0x005 = some (.dscInvWait ⟨5, 0⟩) := by decide

/-! ### Capability values (section 0) -/

theorem test_capabilities :
    verValue defaultParams = 0x10 ∧ capValue defaultParams = 0x00000004E72F0602 ∧ ecapValue defaultParams = 0xE55A ∧
    hawMask defaultParams = 0x0000007FFFFFF000 ∧ paramsOk defaultParams = true := by decide +kernel

/-! ### MMIO (sections 1 and 3) -/

/-- V1 and X2. -/
theorem test_r32 :
    okWith (exec (.mmioR32 0x000) .reset) (fun t => lastResult t == some (.read32 0x10)) = true ∧
    okWith (exec (.mmioR32 0x002) .reset) (fun t => lastResult t == some (.read32 0xFFFFFFFF)) = true := by decide +kernel
/-- V7 and V10. -/
theorem test_r64 :
    okWith (exec (.mmioR64 0x018) t1) (fun t => lastResult t == some (.read64 0xC000000000000000)) = true ∧
    okWith (exec (.mmioR64 0x21C) .reset) (fun t => lastResult t == some (.read64 0xFFFFFFFFFFFFFFFF)) = true := by
  decide +kernel
/-- M1: RW1C and read-only bits of FSTS. -/
theorem test_w32_fsts :
    okWith (exec (.mmioW32 0x034 0x11) (State.reset.setReg32 .fsts 0x13)) (fun t => t.reg32 .fsts == 2) = true := by
  decide +kernel
/-- E5: unmasking FECTL with IP = 1 sends the event. -/
theorem test_w32_unmask :
    okWith (exec (.mmioW32 0x038 0) (State.reset.setReg32 .fectl 0xC0000000))
      (fun t => t.reg32 .fectl == 0 && t.outputs == [.sendMsi 0 0]) = true := by decide +kernel
/-- M5: clearing F; the handler clears PPF. -/
theorem test_w64_frcd :
    okWith (exec (.mmioW64 0xE78 0x8000000000000000)
        ((State.reset.setReg64 .frcdHi 0xC000000600000000).setReg32 .fsts 0x02))
      (fun t => t.reg64 .frcdHi == 0x4000000600000000 && t.reg32 .fsts == 0) = true := by decide +kernel
/-- M14: CCMD completes at once. -/
theorem test_w64_ccmd :
    okWith (exec (.mmioW64 0x028 0xFFFFFFFFFFFFFFFF) .reset) (fun t => t.reg64 .ccmd == 0x78000003FFFFFFFF) = true := by
  decide +kernel

/-! ### Global commands (section 4) -/

/-- Each command row alone: the row, GSTS before and GSTS after (R405 to R407; G2, G7 and the like). -/
theorem test_gcmd_rows :
    ([(.gcmdTeSet, 0x40000000, 0xC0000000), (.gcmdTeClr, 0xC0000000, 0x40000000), (.gcmdQieSet, 0, 0x04000000),
      (.gcmdQieClr, 0x44000000, 0x40000000), (.gcmdIreSet, 0x01000000, 0x03000000), (.gcmdIreClr, 0x03000000, 0x01000000),
      (.gcmdCfiSet, 0, 0x00800000), (.gcmdCfiClr, 0x00800000, 0), (.gcmdSrtp, 0, 0x40000000), (.gcmdSirtp, 0, 0x01000000),
      (.gcmdSfl, 0x80000000, 0x80000000), (.gcmdEafl, 0x80000000, 0x80000000), (.gcmdWbf, 0x80000000, 0x80000000)] :
        List (Instr × Word32 × Word32)).all
      (fun r => okWith (exec r.1 (State.reset.setReg32 .gsts r.2.1)) (fun t => t.reg32 .gsts == r.2.2)) = true := by
  decide +kernel
/-- G4 (the queue head is reset) and the pointers of G1 and G5. -/
theorem test_gcmd_effects :
    okWith (exec .gcmdQieClr (q1With 0x40 0x40)) (fun t => t.reg64 .iqh == 0 && t.reg64 .iqt == 0x40) = true ∧
    okWith (exec .gcmdSrtp (State.reset.setReg64 .rtaddr 0x10C00)) (fun t => t.activeRtaddr == 0x10C00) = true ∧
    okWith (exec .gcmdSirtp (State.reset.setReg64 .irta 0x30803)) (fun t => t.activeIrta == 0x30803) = true := by
  decide +kernel
/-- G3: the whole written word acts. -/
theorem test_gcmd_write :
    okWith (exec (.mmioW32 0x018 0x04000000) (State.reset.setReg32 .gsts 0xC0000000))
      (fun t => t.reg32 .gsts == 0x44000000) = true := by decide +kernel

/-! ### DMA requests (section 5) -/

/-- T1v3: two contiguous pages. -/
theorem test_translate_contiguous :
    okWith (exec (.dmaTranslate 0 0x1800 0x1000 permR .untranslated) (t1With [(0x15010, 0xA003)]))
      (fun t => lastResult t == some (.translated 0x9800 0x1000 permRW 5)) = true := by decide +kernel
/-- T1v6: a write to a read-only page. -/
theorem test_translate_denied :
    okWith (exec (.dmaTranslate 0 0x1000 0x10 permW .untranslated) (t1With [(0x15008, 0x9001)]))
      (fun t => lastResult t == some (.fail []) && t.diag == .at .slWriteDenied && t.reg64 .frcdLo == 0x1000 &&
        t.reg64 .frcdHi == 0x8000000500000000 && t.reg32 .fsts == 2 && t.reg32 .fectl == 0xC0000000) = true := by
  decide +kernel
/-- T1v35; T1v36, with no output returned as the vector says, and with the earlier one as 92 D46 says. -/
theorem test_bulk :
    okWith (exec (.dmaBulk 0 permR [0x1000, 0x2000]) (t1With [(0x15010, 0xC003)]))
      (fun t => lastResult t == some (.bulk [0x9000, 0xC000])) = true ∧
    okWith (exec (.dmaBulk 0 permR [0x1000, 0x2000]) { t1 with params := { defaultParams with bulkEarlier := false } })
      (fun t => lastResult t == some (.fail []) && t.diag == .at .slReadDenied && t.reg64 .frcdLo == 0x2000 &&
        t.reg64 .frcdHi == 0xC000000600000000) = true ∧
    okWith (exec (.dmaBulk 0 permR [0x1000, 0x2000]) t1)
      (fun t => lastResult t == some (.fail [0x9000])) = true := by decide +kernel
/-- T1v38: refused. -/
theorem test_bulk_refused : refusedWith (exec (.dmaBulk 0 permR [0x1800]) t1) .precondition = true := by decide +kernel

/-! ### Interrupt requests (section 6) -/

/-- I1v3: an x2APIC destination. -/
theorem test_remap :
    okWith (exec (.irqRemap 0x0100 0xFEE000B0 0) (i1With 0x1234567800410001 0))
      (fun t => lastResult t == some (.msi 0x12345600FEE78000 0x4041)) = true := by decide +kernel
/-- I1v13: a source ID that does not match. -/
theorem test_remap_mismatch :
    okWith (exec (.irqRemap 0x0110 0xFEE000B0 0) (i1With 0x0000000300410001 0x70108))
      (fun t => t.diag == .ir .sidMismatch && t.reg64 .frcdLo == 0x0005000000000000 &&
        t.reg64 .frcdHi == 0x8000002600000110) = true := by decide +kernel
/-- I1v22 and I1v24. -/
theorem test_compat :
    okWith (exec (.irqRemapCompat 0x0100 0xFEE00000 0x31) i1)
      (fun t => t.diag == .ir .compatBlocked && t.reg64 .frcdHi == 0x8000002500000100) = true ∧
    okWith (exec (.irqRemapCompat 0x0100 0xFEE00000 0x31)
        ({ i1 with activeIrta := 0x30003 }.setReg32 .gsts 0x03800000))
      (fun t => lastResult t == some (.msi 0xFEE00000 0x31)) = true := by decide +kernel

/-! ### The invalidation queue (section 7) -/

/-- Q1v2: every acknowledged type is counted and the next descriptor is up; no register changes. -/
theorem test_acknowledged :
    ((ackRows ⟨0, 0⟩).map (·.1)).all
      (fun i => okWith (exec i (dispatching ⟨0, 0⟩ .start)) (fun t =>
        t.wphase == .dispatching (snapQ1 0 0x10) [⟨0, 0⟩] 1 .start && t.reg32 .fsts == 0 &&
          t.reg64 .iqh == 0x10 && t.outputs == [])) = true := by
  decide +kernel
/-- Q1v3 to Q1v5: every reserved row is IQEI 3. -/
theorem test_reserved :
    (rsvdRows ⟨0, 0⟩).all
      (fun i => okWith (exec i (dispatching ⟨0, 0⟩ .start)) (fun t =>
        t.reg32 .fsts == 0x10 && t.reg64 .iqercd == 3 && t.reg32 .fectl == 0xC0000000 && t.reg64 .iqh == 0x10 &&
          t.wphase == .idle)) = true := by decide +kernel
/-- Q1v1: the status write of W, then its signal stage. -/
theorem test_wait :
    okWith (exec (.dscInvWait waitW) (dispatching waitW .start)) (fun t =>
      t.mem == [(0x50000, 0xAB)] && t.outputs == [.writeGuest 0x50000 [0xAB, 0, 0, 0]] &&
        t.wphase == .dispatching (snapQ1 0 0x10) [waitW] 0 .signal) = true := by decide +kernel
/-- Q1v7: bit 8 of a wait descriptor is reserved. -/
theorem test_wait_reserved :
    okWith (exec (.dscInvWait ⟨0x115, 0⟩) (dispatching ⟨0x115, 0⟩ .start)) (fun t =>
      t.reg64 .iqercd == 4 && t.reg32 .ics == 0 && t.wphase == .idle) = true := by decide +kernel
/-- Q1v1: the signal step. -/
theorem test_signal :
    okWith (step (dispatching waitW .signal)) (fun t => t.reg32 .ics == 1 && t.reg32 .iectl == 0xC0000000) = true := by
  decide +kernel
/-- Q1v11: a tail at the end of the ring. -/
theorem test_tail_invalid :
    okWith (step { q1With 0 0x1000 with wakePending := true })
      (fun t => t.reg64 .iqercd == 1 && t.reg32 .fsts == 0x10 && t.wphase == .idle) = true := by decide +kernel
/-- X6 (b): the fetch of a batch that wraps. -/
theorem test_fetch_wrap :
    okWith (step { q1With 0xFF0 0x10 with
        wphase := .fetching (snapQ1 0xFF0 0x10), mem := withWords [] [(0x40FF0, 2), (0x40000, 0x15)] })
      (fun t => t.wphase == .fetched (snapQ1 0xFF0 0x10)
        (some ([2, 0, 0, 0, 0, 0, 0, 0, 0, 0, 0, 0, 0, 0, 0, 0] ++ [0x15, 0, 0, 0, 0, 0, 0, 0, 0, 0, 0, 0, 0, 0, 0, 0])))
      = true := by decide +kernel

/-! ### Faults, events, reset (section 8) -/

/-- E1: an unmasked fault event. -/
theorem test_fault_event :
    (recordAtFault (((State.reset.setReg32 .fectl 0).setReg32 .fedata 0x60).setReg32 .feaddr 0xFEE00000) .slReadDenied
      ⟨0, 0x5000, .untranslated, true⟩ false).outputs = [.sendMsi 0xFEE00000 0x60] := by decide +kernel
/-- E7: a second fault only sets PFO. -/
theorem test_fault_overflow :
    (fun t : State => (t.reg32 .fsts, t.reg64 .frcdHi))
      (recordAtFault ((State.reset.setReg32 .fsts 2).setReg64 .frcdHi 0xC000000600000000) .rootNotPresent
        ⟨0x100, 0x1000, .untranslated, false⟩ false) = (3, 0xC000000600000000) := by decide +kernel
/-- R5: a reset while the worker is FETCHING is refused. -/
theorem test_reset_busy :
    refusedWith (step { State.reset with agenda := [.reset], wphase := .fetching (snapQ1 0 0x10) }) .hostStepBusy = true := by
  decide +kernel
/-- R6: after a shutdown the idle worker exits. -/
theorem test_shutdown :
    okWith (step { State.reset with shutdown := true }) (fun t => t.wphase == .exited) = true := by decide +kernel
/-- The words of the opcode table run as the first operation after reset. -/
theorem test_withFetchWord :
    okWith (step (State.reset.withFetchWord 32 0x80000000)) (fun t => t.reg32 .gsts == 0x80000000) = true ∧
    okWith (step (State.reset.withFetchWord 16 0x005)) (fun t => t.wphase == .dispatching tableSnap [⟨5, 0⟩] 1 .start)
      = true := by decide +kernel

/-! ### Witnesses: states that meet the hypotheses of the statements -/

/-- DecodeEncode: well-formed operations of every source. -/
theorem test_witness_DecodeEncode :
    ([.mmioW32 0x018 5, .dmaTranslate 0 0xFFFFFFFFFFFFFFFF 1 permW .translated, .dmaBulk 0 permR [0, 0x1000],
      .irqRemap 0 0x10 0, .irqRemapCompat 0 0 0, .dscRsvdT6 ⟨0x9FF, 0⟩] : List Instr).map
        (fun i => (i.wellFormed, sourceOf i)) =
      [(true, some (.call .mmio)), (true, some (.call .translate)), (true, some (.call .bulk)), (true, some (.call .irq)),
        (true, some (.call .irq)), (true, some .ring)] := by decide
/-- EncodeDecode: bytes that the decoder accepts, with the longest length a call can have. -/
theorem test_witness_EncodeDecode :
    decode (.call .translate) [0, 0, 0, 0, 0, 0, 0, 0, 0, 0, 0xFF, 0xFF, 0xFF, 0xFF, 0xFF, 0xFF, 0xFF, 0xFF, 2, 2] =
      .ok (.dmaTranslate 0 0 0 permRW .translated) := by decide
/-- StepRunsCall. -/
theorem test_witness_StepRunsCall :
    ({ State.reset with agenda := [.call .mmio [0x38, 0x00]] }.agenda = .call .mmio [0x38, 0x00] :: []) ∧
    decode (.call .mmio) [0x38, 0x00] = .ok (.mmioR32 0x038) ∧ (Instr.mmioR32 0x038).wellFormed = true := by decide
/-- StepRunsDescriptor. -/
theorem test_witness_StepRunsDescriptor :
    WorkerTurn (dispatching waitW .start) ∧
    (dispatching waitW .start).wphase = .dispatching (snapQ1 0 0x10) [waitW] 0 .start ∧ [waitW][0]? = some waitW ∧
    decode .ring (encodeDesc waitW) = .ok (.dscInvWait waitW) := ⟨.inl rfl, rfl, rfl, by decide⟩
/-- Other window extents than the defaults (R11): group 0 to 0x300, group 1 from 0xD00 to the end of the region. -/
def wideWindows : Windows := ⟨0x300, 0xD00, 0x1000, 0x1000, by decide⟩

/-- MmioReads and RejectedAccess: the last accepted and the first rejected offsets of both groups and sizes, with the
default extents and with others. -/
theorem test_witness_Accepts :
    (Accepts defaultWindows 0x21C 4 ∧ ¬ Accepts defaultWindows 0x220 4 ∧ Accepts defaultWindows 0xE00 4 ∧
      Accepts defaultWindows 0xE7C 4 ∧ ¬ Accepts defaultWindows 0xE80 4 ∧ ¬ Accepts defaultWindows 0xDFC 4) ∧
    (Accepts defaultWindows 0x218 8 ∧ ¬ Accepts defaultWindows 0x21C 8 ∧ Accepts defaultWindows 0xE00 8 ∧
      Accepts defaultWindows 0xE78 8 ∧ ¬ Accepts defaultWindows 0xE80 8 ∧ ¬ Accepts defaultWindows 0x002 4) ∧
    (Accepts wideWindows 0x2F8 8 ∧ ¬ Accepts wideWindows 0x300 4 ∧ Accepts wideWindows 0xD00 4 ∧ Accepts wideWindows 0xFF8 8)
      := by
  refine ⟨?_, ?_, ?_⟩ <;> decide
/-- R11, R131: with other extents a read of an offset that the default extents reject is accepted. -/
theorem test_wideWindows :
    okWith (exec (.mmioR32 0x2FC) (resetWith defaultParams wideWindows)) (fun t => lastResult t == some (.read32 0)) = true ∧
    okWith (exec (.mmioR32 0x2FC) .reset) (fun t => lastResult t == some (.read32 0xFFFFFFFF)) = true ∧
    okWith (exec (.mmioR32 0x038) (resetWith defaultParams wideWindows))
      (fun t => lastResult t == some (.read32 0x80000000)) = true := by decide +kernel
/-- PlainWrite: a write of each size that meets no handler. -/
theorem test_witness_PlainWrite :
    writeOf (.mmioW64 0x020 1) = some (0x020, 8, 1) ∧ Accepts defaultWindows 0x020 8 ∧
    (∀ x ∈ handlerRegs, 0x020 + 8 ≤ x.off ∨ x.off + x.size ≤ 0x020) ∧
    writeOf (.mmioW32 0x030 1) = some (0x030, 4, 1) ∧ Accepts defaultWindows 0x030 4 ∧
    (∀ x ∈ handlerRegs, 0x030 + 4 ≤ x.off ∨ x.off + x.size ≤ 0x030) := by decide
/-- FstsWrite, IcsWrite: the 8-byte and the 4-byte write that covers the register. -/
theorem test_witness_FstsIcsWrite :
    writeOf (.mmioW64 0x030 0) = some (0x030, 8, 0) ∧ Accepts defaultWindows 0x030 8 ∧ writeOf (.mmioW32 0x034 1) = some (0x034, 4, 1) ∧
    Accepts defaultWindows 0x034 4 ∧ (0x030 < 0x038 ∧ 0x034 < 0x030 + 8) ∧ (0x034 < 0x038 ∧ 0x034 < 0x034 + 4) ∧ Accepts defaultWindows 0x098 8 ∧
    (0x098 < 0x0A0 ∧ 0x09C < 0x098 + 8) ∧ Accepts defaultWindows 0x09C 4 := by decide
/-- EventControlWrite: both branches, a write that unmasks a pending event and one that does not. -/
theorem test_witness_EventControlWrite :
    writeOf (.mmioW64 0x038 0) = some (0x038, 8, 0) ∧ Accepts defaultWindows 0x038 8 ∧ Accepts defaultWindows 0x0A0 4 ∧
    (State.reset.setReg32 .fectl 0xC0000000).flag .feIm = true ∧
    (State.reset.setReg32 .fectl 0xC0000000).flag .feIp = true ∧
    maskedBit defaultParams (State.reset.setReg32 .fectl 0xC0000000).regs 0x038 8 0 Flag.feIm.pos = false ∧
    maskedBit defaultParams (State.reset.setReg32 .fectl 0xC0000000).regs 0x038 8 0x80000000 Flag.feIm.pos = true := by
  decide +kernel
/-- FrcdWrite, InvalidationRegisterWrite, IqtWrite: writes that cover each register, the halves alone too. -/
theorem test_witness_RegisterWrites :
    Accepts defaultWindows 0xE78 8 ∧ Accepts defaultWindows 0xE7C 4 ∧ (0xE7C < 0xE80 ∧ 0xE78 < 0xE7C + 4) ∧ Accepts defaultWindows 0x028 8 ∧ Accepts defaultWindows 0xE5C 4 ∧
    (0xE5C < 0xE58 + 8 ∧ 0xE58 < 0xE5C + 4) ∧ Accepts defaultWindows 0x088 8 ∧ Accepts defaultWindows 0x08C 4 ∧ (0x08C < 0x090 ∧ 0x088 < 0x08C + 4) ∧
    writeOf (.mmioW32 0xE7C 0x80000000) = some (0xE7C, 4, 0x80000000) ∧
    maskedBit defaultParams State.reset.regs 0x028 8 0x8000000000000000 (8 * 0x028 + 63) = true := by decide +kernel
/-- GcmdWrite: both sizes (G9). -/
theorem test_witness_GcmdWrite :
    writeOf (.mmioW32 0x018 0x80000000) = some (0x018, 4, 0x80000000) ∧
    writeOf (.mmioW64 0x018 0xFFFFFFFF80000000) = some (0x018, 8, 0xFFFFFFFF80000000) := by decide
/-- DisabledTranslation and DisabledRemapping: after reset (R3, R4 of section 8). -/
theorem test_witness_disabled :
    State.reset.flag .tes = false ∧ State.reset.flag .ires = false ∧ translatePre 0x5000 0x10 permW = true ∧
    bulkPre permR [0x1000] = true := by decide +kernel
/-- DmaPreconditions: each clause at its boundary. -/
theorem test_witness_DmaPreconditions :
    (0 : Word64).toNat = 0 ∧ 2 ^ 64 < (0xFFFFFFFFFFFFFFFF : Word64).toNat + (2 : Word64).toNat ∧
    ∃ a ∈ ([0x1001] : List Word64), a.toNat % 4096 ≠ 0 := ⟨by decide, by decide, 0x1001, List.mem_singleton.2 rfl, by decide⟩
/-- DmaCompletes: the last byte of the space. -/
theorem test_witness_DmaCompletes :
    permR.read = true ∧ 0 < (1 : Word64).toNat ∧ (0xFFFFFFFFFFFFFFFF : Word64).toNat + (1 : Word64).toNat ≤ 2 ^ 64 ∧
    ([0x1000] : List Word64) ≠ [] ∧ ∀ a ∈ ([0x1000] : List Word64), a.toNat % 4096 = 0 :=
  ⟨rfl, by decide, by decide, by decide, fun a h => by rw [List.mem_singleton.1 h]; decide⟩
/-- TableModes: the three modes (T1v30 to T1v32), for a translation and for a bulk call. -/
theorem test_witness_TableModes :
    translatePre 0x1000 0x10 permR = true ∧ bulkPre permR [0x1000] = true ∧ t1.flag .tes = true ∧
    field { t1 with activeRtaddr := 0x10400 }.activeRtaddr 10 2 = 0b01 ∧
    field { t1 with activeRtaddr := 0x10800 }.activeRtaddr 10 2 = 0b10 ∧
    field { t1 with activeRtaddr := 0x10C00 }.activeRtaddr 10 2 = 0b11 := by decide +kernel

/-! ### Witnesses: what the tables of M0 say -/

/-- A 16-byte read of memory's own quadwords. -/
theorem reads128_honest {m : Memory} {a q0 q1 : Word64} (h : q0 = m.word64At a ∧ q1 = m.word64At (a + 8)) :
    Reads128 m [] a q0 q1 [] := .inl ⟨.inl ⟨rfl, rfl⟩, h⟩

/-- An 8-byte read of memory's own value. -/
theorem reads64_honest {m : Memory} {a v : Word64} (h : v = m.word64At a) : Reads64 m [] a v [] := .inl ⟨.inl ⟨rfl, rfl⟩, h⟩

/-- The root entry of T1, read honestly, for devices of bus 0. -/
theorem test_root_t1 (mem : Memory) (h : mem.word64At 0x10000 = 0x11001 ∧ mem.word64At 0x10008 = 0) :
    Reads128 mem [] (rootEntryAddr defaultParams 0x10000 0) 0x11001 0 [] := by
  refine reads128_honest ⟨?_, ?_⟩
  · rw [show rootEntryAddr defaultParams 0x10000 0 = 0x10000 by decide +kernel, h.1]
  · rw [show rootEntryAddr defaultParams 0x10000 0 + 8 = 0x10008 by decide +kernel, h.2]

/-- A page mapped by a tree of four levels, from the words of the tree. -/
theorem mapped_four (p : Params) (m : Memory) (sn : Snap) (sid : BitVec 16) (flags : Perm) (addr : Word64) (h : PageHit)
    (q0 q1 e3 e2 e1 e0 : Word64) (ctx : ContextOf p m sn.rt sid [] q0 q1 []) (w : WidthValid sn.cap q1)
    (hd : h.did.toNat = q1.toNat / 256 % 2 ^ didWidth p) (ht : field q0 2 2 = 0 ∧ h.isPt = false)
    (ha : InsideWidth p q1 addr) (hl : (field q1 0 3).toNat + 1 = 3)
    (r3 : e3 = m.word64At (slEntryAddr (q0 &&& hawMask p) addr 3))
    (p3 : EntryPasses p sn.cap flags (permsAfter ⟨true, true⟩ e3) e3 3)
    (r2 : e2 = m.word64At (slEntryAddr (e3 &&& 0x000FFFFFFFFFF000 &&& hawMask p) addr 2))
    (p2 : EntryPasses p sn.cap flags (permsAfter (permsAfter ⟨true, true⟩ e3) e2) e2 2 ∧ ¬ LeafEntry 2 e2)
    (r1 : e1 = m.word64At (slEntryAddr (e2 &&& 0x000FFFFFFFFFF000 &&& hawMask p) addr 1))
    (p1 : EntryPasses p sn.cap flags (permsAfter (permsAfter (permsAfter ⟨true, true⟩ e3) e2) e1) e1 1 ∧ ¬ LeafEntry 1 e1)
    (r0 : e0 = m.word64At (slEntryAddr (e1 &&& 0x000FFFFFFFFFF000 &&& hawMask p) addr 0))
    (p0 : h.perm = permsAfter (permsAfter (permsAfter (permsAfter ⟨true, true⟩ e3) e2) e1) e0 ∧
      EntryPasses p sn.cap flags h.perm e0 0)
    (hs : h.psize = 2 ^ 12) (ho : h.out.toNat = leafBase e0 0 + addr.toNat % h.psize)
    (hw : OutsideWindow p (leafBase e0 0) h.psize) :
    PageMapped p m sn sid flags .untranslated addr [] h [] := by
  refine ⟨q0, q1, [], ctx, w, hd, .inr ⟨ht.1, rfl, ht.2, ha, 0, e0, ?_, hs, ho, hw⟩⟩
  rw [hl]
  refine .down 2 _ e3 _ 0 e0 _ [] [] [] (reads64_honest r3) p3 (by simp [LeafEntry]) ?_
  refine .down 1 _ e2 _ 0 e0 _ [] [] [] (reads64_honest r2) p2.1 p2.2 ?_
  refine .down 0 _ e1 _ 0 e0 _ [] [] [] (reads64_honest r1) p1.1 p1.2 ?_
  exact .leaf 0 _ e0 _ _ [] [] (reads64_honest r0) p0.1 p0.2 (.inl rfl)

/-- The context entry of device 0 of T1, whatever else memory holds. -/
theorem contextOf_t1 (mem : Memory) (q0 : Word64) (hq : q0 = 0x12001 ∨ q0 = 0x9)
    (h : mem.word64At 0x10000 = 0x11001 ∧ mem.word64At 0x10008 = 0 ∧ mem.word64At 0x11000 = q0 ∧
      mem.word64At 0x11008 = 0x502) : ContextOf defaultParams mem 0x10000 0 [] q0 0x502 [] := by
  refine ⟨0x11001, 0, [], test_root_t1 mem ⟨h.1, h.2.1⟩, by decide, by decide +kernel, reads128_honest ⟨?_, ?_⟩, ?_, ?_⟩
  · rw [show ctxEntryAddr defaultParams 0x11001 0 = 0x11000 by decide +kernel, h.2.2.1]
  · rw [show ctxEntryAddr defaultParams 0x11001 0 + 8 = 0x11008 by decide +kernel, h.2.2.2]
  all_goals rcases hq with rfl | rfl <;> decide +kernel

/-- LookupIsPageMapped: page 0x1000 of M0 is mapped to 0x9000 (T1v1). -/
theorem test_witness_LookupIsPageMapped :
    paramsOk defaultParams = true ∧
    PageMapped defaultParams t1.mem (takeSnap t1) 0 permR .untranslated 0x1000 [] ⟨0x9000, 4096, permRW, 5, false⟩ [] := by
  refine ⟨by decide, mapped_four _ _ _ _ _ _ _ 0x12001 0x502 0x13003 0x14003 0x15003 0x9003
    (contextOf_t1 _ _ (.inl rfl) (by decide +kernel)) ?_ ?_ ?_ ?_ ?_ ?_ ?_ ?_ ?_ ?_ ?_ ?_ ?_ ?_ ?_ ?_⟩
  all_goals first | decide +kernel | (unfold EntryPasses; decide +kernel)

/-- PagesTranslated: the second page of T1 next to the first (T1v3) or elsewhere (T1v4), and a range of both. -/
theorem test_witness_PagesTranslated (e : Word64) (he : e = 0xA003 ∨ e = 0xC003) :
    paramsOk (t1With [(0x15010, e)]).params = true ∧ (t1With [(0x15010, e)]).flag .tes = true ∧
    field (t1With [(0x15010, e)]).activeRtaddr 10 2 = 0b00 ∧ (t1With [(0x15010, e)]).oracle = [] ∧
    translatePre 0x1800 0x1000 permR = true ∧
    PageMapped (t1With [(0x15010, e)]).params (t1With [(0x15010, e)]).mem (takeSnap (t1With [(0x15010, e)])) 0 permR
      .untranslated 0x1800 [] ⟨0x9800, 4096, permRW, 5, false⟩ [] ∧
    PageMapped (t1With [(0x15010, e)]).params (t1With [(0x15010, e)]).mem (takeSnap (t1With [(0x15010, e)])) 0 permR
      .untranslated (0x1800 + BitVec.ofNat 64 (min (0x1000 : Word64).toNat (4096 - (0x1800 : Word64).toNat % 4096))) []
      ⟨e &&& ~~~0xFFF#64, 4096, permRW, 5, false⟩ [] := by
  rcases he with rfl | rfl
  all_goals
    refine ⟨by decide, by decide +kernel, by decide, rfl, by decide, ?_, ?_⟩
    · refine mapped_four _ _ _ _ _ _ _ 0x12001 0x502 0x13003 0x14003 0x15003 0x9003
        (contextOf_t1 _ _ (.inl rfl) (by decide +kernel)) ?_ ?_ ?_ ?_ ?_ ?_ ?_ ?_ ?_ ?_ ?_ ?_ ?_ ?_ ?_ ?_
      all_goals first | decide +kernel | (unfold EntryPasses; decide +kernel)
    · refine mapped_four _ _ _ _ _ _ _ 0x12001 0x502 0x13003 0x14003 0x15003 _
        (contextOf_t1 _ _ (.inl rfl) (by decide +kernel)) ?_ ?_ ?_ ?_ ?_ ?_ ?_ ?_ ?_ ?_ ?_ rfl ?_ ?_ ?_ ?_
      all_goals first | decide +kernel | (unfold EntryPasses; decide +kernel)

/-- PagesTranslated: PagesTo and BulkMapped over those two pages (T1v3, T1v35). -/
theorem test_witness_PagesTo (p : Params) (m : Memory) (sn : Snap) (addr base : Word64) (h : PageHit)
    (hm : PageMapped p m sn 0 permR .untranslated (addr + BitVec.ofNat 64 0x800) [] h [])
    (hp : h.isPt = false ∧ h.psize = 4096 ∧ h.perm = permRW) (hc : h.out = base + BitVec.ofNat 64 0x800) :
    PagesTo p m sn 0 permR .untranslated addr base 0x1000 0x800 permRW [] 0x1000 permRW [] ∧
    BulkMapped p m sn 0 permR [addr + BitVec.ofNat 64 0x800] [] [h.out] [] := by
  refine ⟨.page _ _ _ h [] _ _ _ (by decide) hm hp.1 hc ?_, .cons _ _ _ h [] _ _ hm (.nil _)⟩
  rw [hp.2.1, hp.2.2]
  exact .stay _ _ _

/-- PagesTranslated, a pass-through page (X4). -/
theorem test_witness_passThrough :
    PageMapped defaultParams (t1With [(0x11000, 0x9)]).mem (takeSnap (t1With [(0x11000, 0x9)])) 0 permW .untranslated
      0xFEE00000 [] ⟨0xFEE00000, 0, permRW, 5, true⟩ [] :=
  ⟨0x9, 0x502, [], contextOf_t1 _ _ (.inr rfl) (by decide +kernel), by decide +kernel, by decide +kernel,
    .inl (by decide +kernel)⟩

/-- EntryFaults: reads of the root and of the context entry that fail, and a device without a context entry (T1v40). -/
theorem test_witness_EntryFaults :
    (translatePre 0x1000 0x10 permR = true ∧ t1.flag .tes = true ∧ field t1.activeRtaddr 10 2 = 0b00) ∧
    PageFaults defaultParams t1.mem (takeSnap t1) 0 permR .untranslated 0x1000 [.fail] .rootReadFailed false [] ∧
    PageFaults defaultParams t1.mem (takeSnap t1) 0 permR .untranslated 0x1000
      [.bytes (bytes64 0x11001), .fail] .ctxReadFailed false [] ∧
    PageFaults defaultParams t1.mem (takeSnap t1) 1 permR .untranslated 0x1000 [] .ctxNotPresent false [] := by
  refine ⟨by decide +kernel, .rootUnread _ _ rfl, .ctxUnread _ [.fail] _ 0x11001 0 (.inr ⟨_, rfl, by decide, by decide⟩)
    (by decide) (by decide +kernel) rfl, ?_⟩
  refine .ctx [] [] [] [] 0x11001 0 0 0 _ (test_root_t1 _ (by decide +kernel)) (by decide) (by decide +kernel)
    (reads128_honest ?_) ?_
  · decide +kernel
  · unfold CtxFaults; exact ⟨rfl, rfl⟩

/-- EntryFaults: at level 3 of T1's walk, a read that fails, a denied write before a reserved bit, a reserved bit, and at
level 0 a page in the interrupt window. -/
theorem test_witness_SlFaults :
    SlFaults defaultParams t1.mem (takeSnap t1).cap permW 0x1000 3 0x12000 permRW [.fail] .slReadFailed [] ∧
    SlFaults defaultParams (t1With [(0x12000, 0x81)]).mem (takeSnap t1).cap permW 0x1000 3 0x12000 permRW [] .slWriteDenied [] ∧
    SlFaults defaultParams (t1With [(0x12000, 0x83)]).mem (takeSnap t1).cap permW 0x1000 3 0x12000 permRW [] .slRsvd [] ∧
    SlFaults defaultParams (t1With [(0x15008, 0xFEE00003)]).mem (takeSnap t1).cap permW 0x1000 0 0x15000 permRW []
      .outInWindow [] := by
  refine ⟨.unread _ _ _ _ _ rfl, .check _ _ 0x81 _ _ _ _ (reads64_honest ?_) ?_, .check _ _ 0x83 _ _ _ _ (reads64_honest ?_) ?_,
    .window _ _ 0xFEE00003 _ _ _ (reads64_honest ?_) ?_ ?_ ?_⟩
  all_goals first | decide +kernel | (unfold EntryFaultsWith; decide +kernel) | (unfold EntryPasses; decide +kernel)
/-- PagesTranslated: a bulk call whose first address is mapped and whose second faults (T1v36). -/
theorem test_witness_bulkFault :
    bulkPre permR ([0x1000] ++ 0x2000 :: []) = true ∧
    BulkMapped defaultParams t1.mem (takeSnap t1) 0 permR [0x1000] [] [0x9000] [] ∧
    PageFaults defaultParams t1.mem (takeSnap t1) 0 permR .untranslated 0x2000 [] .slReadDenied false [] := by
  refine ⟨by decide, .cons _ _ _ _ _ _ _ test_witness_LookupIsPageMapped.2 (.nil _), ?_⟩
  refine .ctx [] [] [] [] 0x11001 0 0x12001 0x502 _ (test_root_t1 _ (by decide +kernel)) (by decide) (by decide +kernel)
    (reads128_honest (by decide +kernel)) ?_
  unfold CtxFaults
  rw [if_neg (by decide), if_neg (by decide +kernel), if_neg (by decide), if_neg (by decide), if_neg (by decide),
    if_neg (by decide +kernel), if_neg (by decide +kernel)]
  refine .down 2 _ 0x13003 _ _ [] _ _ (reads64_honest (by decide +kernel)) ?_ (by decide) ?_
  · unfold EntryPasses; decide +kernel
  refine .down 1 _ 0x14003 _ _ [] _ _ (reads64_honest (by decide +kernel)) ?_ (by decide) ?_
  · unfold EntryPasses; decide +kernel
  refine .down 0 _ 0x15003 _ _ [] _ _ (reads64_honest (by decide +kernel)) ?_ (by decide) ?_
  · unfold EntryPasses; decide +kernel
  refine .check 0 _ 0 _ _ _ _ (reads64_honest (by decide +kernel)) ?_
  unfold EntryFaultsWith; decide +kernel
/-- SplitIsAtomic, SnapshotIsolation: a request that begins, and a GCMD write after it. -/
theorem test_witness_split :
    requestOf (.irqRemap 0 0x10 0) = some (.remap 0 0x10 0) ∧ (Instr.irqRemap 0 0x10 0).wellFormed = true ∧
    okWith (beginRequest t1 (.irqRemap 0 0x10 0)) (fun s1 =>
      s1.inflight[0]? == some ⟨.remap 0 0x10 0, takeSnap t1, [], none⟩ && okWith (exec (.mmioW32 0x018 0) s1) (fun _ => true)) = true ∧
    writeOf (.mmioW32 0x018 0) = some (0x018, 4, 0) := by decide +kernel
/-- Steps one after another. -/
def inTurn (fs : List (State → Out)) (s : State) : Out :=
  fs.foldl (fun o f => match o with | .next t => f t | x => x) (.next s)
/-- SplitIsAtomic, and a bulk call in steps whose translation is disabled after its first element: with a snapshot of its own
(R156) the second element passes as it is, without one (R330) it faults under the first snapshot. -/
theorem test_bulk_steps :
    let first := [(fun s => beginRequest s (.dmaBulk 0 permR [0x1000, 0x2000])), (walkInFlight · 0), (recordInFlight · 0),
      exec (.mmioW32 0x018 0)]
    okWith (inTurn (first ++ [(snapshotInFlight · 0), (walkInFlight · 0), (recordInFlight · 0)]) t1)
      (fun t => lastResult t == some (.bulk [0x9000, 0x2000]) && t.inflight.isEmpty) = true ∧
    okWith (inTurn (first ++ [(walkInFlight · 0), (recordInFlight · 0)]) t1)
      (fun t => lastResult t == some (.fail [0x9000]) && t.inflight.isEmpty) = true ∧
    refusedWith (inTurn [(fun s => beginRequest s (.dmaBulk 0 permR [0x1000, 0x2000])), (snapshotInFlight · 0)] t1)
      .notEnabled = true := by decide +kernel
/-- RequestsFrame: a request of each form completes. -/
theorem test_witness_RequestsFrame :
    ([.dmaTranslate 0 0x1000 1 permR .untranslated, .dmaBulk 0 permR [0x1000], .irqRemap 0 0x10 0, .irqRemapCompat 0 0 0] :
      List Instr).all (fun i => (requestOf i).isSome && okWith (exec i t1) (fun _ => true)) = true := by decide +kernel
/-- CompatFormat: enabled remapping, blocked and not. -/
theorem test_witness_CompatFormat :
    i1.flag .ires = true ∧ i1.flag .cfis = false ∧ (i1.setReg32 .gsts 0x03800000).flag .cfis = true ∧
    (i1.setReg32 .gsts 0x03800000).flag .ires = true ∧ { i1 with activeIrta := 0x30003 }.activeIrta.getLsbD 11 = false := by
  decide +kernel
/-- RemapDelivers: I1v1, and the last entry of the table (h = 15). -/
theorem test_witness_RemapDelivers :
    i1.flag .ires = true ∧ i1.oracle = [] ∧ (0xFEE000B0 : Word64).toNat / 32 % 2 ^ 15 = 5 ∧
    (0xFEE000B0 : Word64).getLsbD 2 = false ∧ (0xFEE000B0 : Word64).getLsbD 3 = false ∧
    15 < 2 ^ (i1.activeIrta.toNat % 16 + 1) ∧ ¬ 16 < 2 ^ (i1.activeIrta.toNat % 16 + 1) ∧
    Reads128 i1.mem i1.oracle ((i1.activeIrta &&& hawMask i1.params) + BitVec.ofNat 64 (16 * 5)) 0x0000000300410001 0 [] ∧
    IrteClean (i1.activeIrta.getLsbD 11) 0x0000000300410001 0 ∧ SourceAccepted 0x0100 0 ∧
    SourceAccepted 0x010F 0x70108 ∧ SourceAccepted 0x0300 0x80203 := by
  refine ⟨?_, ?_, ?_, ?_, ?_, ?_, ?_, reads128_honest ?_, ?_, ?_, ?_, ?_⟩ <;> decide +kernel
/-- RemapFaults: an index out of range, a read that fails, and a quadword pair for each other fault (I1v21, I1v17, I1v16,
I1v13, I1v15, I1v18). -/
theorem test_witness_RemapFaults :
    (i1.flag .ires = true ∧ 2 ^ (i1.activeIrta.toNat % 16 + 1) ≤ 16 ∧ (0x1000 : Word64).getLsbD 0 = false ∧
      Fails { i1 with oracle := [.fail] }.oracle []) ∧
    ¬ IrteClean true 0x0000000300410001 0x100000 ∧ field (0xC0000 : Word64) 18 2 = 3 ∧ IrteClean true 0x0000000300410001 0xC0000 ∧
    ¬ SourceAccepted 0x0110 0x70108 ∧ field (0x70108 : Word64) 18 2 = 1 ∧ ¬ SourceAccepted 0x0400 0x80203 ∧
    field (0x80203 : Word64) 18 2 = 2 ∧ SourceAccepted 0x0100 0 ∧ (0x0000000300418001 : Word64).getLsbD 15 = true ∧
    IrteClean true 0x0000000300418001 0 := by
  refine ⟨?_, ?_, ?_, ?_, ?_, ?_, ?_, ?_, ?_, ?_, ?_⟩ <;> decide +kernel
/-- AcknowledgedTypes, ReservedTypes, WaitErrors: a worker at the start of a descriptor. -/
theorem test_witness_dispatching :
    (dispatching ⟨0x2, 0⟩ .start).wphase = .dispatching (snapQ1 0 0x10) [⟨0x2, 0⟩] 0 .start ∧
    (Instr.dscIotlbInv ⟨0x2, 0⟩, AckType.iotlbInv) ∈ ackRows ⟨0x2, 0⟩ ∧ Instr.dscRsvd00 ⟨0, 0⟩ ∈ rsvdRows ⟨0, 0⟩ := by decide
/-- WaitCompletes: W (SW and IF), and a descriptor with neither; WaitErrors: each reserved bit, and W with a failing write. -/
theorem test_witness_Wait :
    (dispatching waitW .start).mem.wf ∧ waitW.qw0.getLsbD 7 = false ∧ waitW.qw0.getLsbD 8 = false ∧
    field waitW.qw0 12 20 = 0 ∧ field waitW.qw1 0 2 = 0 ∧ waitW.qw0.getLsbD 5 = true ∧
    (dispatching waitW .start).oracle.head? ≠ some .fail ∧ (0x45 : Word64).getLsbD 5 = false ∧
    ((0x95 : Word64).getLsbD 7 = true ∧ ((dispatching waitW .start).reg64 .ecap).getLsbD 42 = false) ∧
    (0x115 : Word64).getLsbD 8 = true ∧ field (0x1005 : Word64) 12 20 ≠ 0 ∧ field (0x50001 : Word64) 0 2 ≠ 0 ∧
    { dispatching waitW .start with oracle := [.fail] }.oracle.head? = some .fail := by
  refine ⟨⟨List.Pairwise.nil, fun _ h => by cases h⟩, ?_⟩
  decide +kernel
/-- SignalStep: a worker at the signal stage, with IWC 0 and with IWC 1. -/
theorem test_witness_SignalStep :
    WorkerTurn (dispatching waitW .signal) ∧
    (dispatching waitW .signal).wphase = .dispatching (snapQ1 0 0x10) [waitW] 0 .signal ∧
    (dispatching waitW .signal).flag .iwc = false ∧ ((dispatching waitW .signal).setReg32 .ics 1).flag .iwc = true :=
  ⟨.inl rfl, rfl, by decide +kernel, by decide +kernel⟩
/-- QueueCheck: a state for each branch (Q1; Q1v1; Q1v13; Q1v11; 256-bit descriptors; Q1v21). -/
theorem test_witness_QueueCheck :
    ([(q1With 0 0, WPhase.idle), (q1With 0 0x10, .fetching (snapQ1 0 0x10)),
      ({ q1With 0 0x10 with activeRtaddr := 0x800 }, .idle), (q1With 0 0x1000, .idle),
      ((q1With 0 0x10).setReg64 .iqa 0x40800, .idle), (q1With 0x1800 0x10, .idle)] : List (State × WPhase)).map
        (fun r => ((checkQueue r.1).wphase == r.2, (checkQueue r.1).reg64 .iqercd)) =
      [(true, 0), (true, 0), (true, 7), (true, 1), (true, 6), (true, 1)] := by decide +kernel
/-- FetchStep: a batch, one that wraps, and a first or a second read that fails. -/
theorem test_witness_FetchStep :
    SnapOk (snapQ1 0 0x20) ∧ SnapOk (snapQ1 0xFF0 0x10) ∧ SnapOk (snapQ1 0xFF0 0) ∧
    WorkerTurn { State.reset with wphase := .fetching (snapQ1 0 0x20) } ∧ State.reset.oracle = [] ∧
    Fails { State.reset with wphase := .fetching (snapQ1 0 0x20), oracle := [.fail] }.oracle [] ∧
    ((snapQ1 0xFF0 0x10).tail < (snapQ1 0xFF0 0x10).head ∧ (snapQ1 0xFF0 0x10).tail ≠ 0 ∧ Fails [.fail] []) := by
  refine ⟨?_, ?_, ?_, .inl rfl, rfl, rfl, by decide, by decide, rfl⟩ <;> constructor <;> decide
/-- AdvanceStep: bytes read, and a failed read. -/
theorem test_witness_AdvanceStep :
    WorkerTurn { State.reset with wphase := .fetched (snapQ1 0 0x10) (some (encodeDesc waitW)), agenda := [.worker] } ∧
    okWith (step { State.reset with wphase := .fetched (snapQ1 0 0x10) (some (encodeDesc waitW)) })
      (fun t => t.wphase == .dispatching (snapQ1 0 0x10) [waitW] 0 .start && t.reg64 .iqh == 0x10) = true ∧
    okWith (step { State.reset with wphase := .fetched (snapQ1 0 0x10) none }) (fun t => t.diag == .iq .fetchFailed) = true :=
  ⟨.inr rfl, by decide +kernel, by decide +kernel⟩
/-- WorkerTurns: each phase it names, and both ways the worker comes to move. -/
theorem test_witness_WorkerTurns :
    WorkerTurn State.reset ∧ State.reset.wphase = .idle ∧ WorkerTurn { State.reset with agenda := [.worker] } ∧
    { State.reset with wphase := .dispatching (snapQ1 0 0x10) [waitW] [waitW].length .start }.wphase =
      .dispatching (snapQ1 0 0x10) [waitW] [waitW].length .start := ⟨.inl rfl, rfl, .inr rfl, rfl⟩
/-- CapabilityFields: parameters in range, at both ends. -/
theorem test_witness_CapabilityFields :
    paramsOk { defaultParams with haw := 32, mgaw := 21, nd := 0 } = true ∧
    paramsOk { defaultParams with haw := 52, mgaw := 57, nd := 6 } = true ∧
    paramsOk { defaultParams with haw := 53 } = false ∧ paramsOk { defaultParams with mgaw := 20 } = false := by decide
/-- A device image that fits the reset machine. -/
def imageReset : RestoreImage where
  ver := verValue defaultParams
  cap := capValue defaultParams
  ecap := ecapValue defaultParams
  g0 := (resetRegs defaultParams defaultWindows).g0.toList
  g1 := (resetRegs defaultParams defaultWindows).g1.toList
  offs := [0xE50, 0xE58, 0xE70]
  rt := 0x10000
  irta := 0x30803
/-- HostSteps: a restore that fits, one that does not, and the busy machines. -/
theorem test_witness_HostSteps :
    imageFits defaultParams defaultWindows imageReset = true ∧
    imageFits defaultParams defaultWindows { imageReset with ver := 0x11 } = false ∧
    imageFits defaultParams defaultWindows { imageReset with g0 := 0x11 :: imageReset.g0.tail } = false ∧
    ((∀ k < 4, imageReset.g0.getD k 0 = byteOf (verValue defaultParams) k) ∧
      (∀ k < 8, imageReset.g0.getD (0x008 + k) 0 = byteOf (capValue defaultParams) k) ∧
      (∀ k < 8, imageReset.g0.getD (0x010 + k) 0 = byteOf (ecapValue defaultParams) k)) ∧
    okWith (step { State.reset with agenda := [.restore imageReset] }) (fun t => t.activeRtaddr == 0x10000) = true ∧
    { State.reset with inflight := [⟨.remapCompat 0 0 0, takeSnap .reset, [], none⟩] }.inflight ≠ [] := by decide +kernel
/-- InvKept, SlotKept, ActivePointers, GuestMemory: a step from a state that meets the invariants. -/
theorem test_witness_invariants :
    Inv t1 ∧ SlotInv t1 ∧ okWith (step { t1 with agenda := [.guestStore 0x50000 [1]] })
      (fun t => t.mem.byteAt 0x50000 != t1.mem.byteAt 0x50000) = true ∧
    okWith (step { t1 with agenda := [.call .mmio [0x18, 0x20, 0, 0, 0, 0x40]] }) (fun t => t.activeRtaddr == 0x10000) = true := by
  refine ⟨⟨by decide, by decide +kernel, ?_, trivial⟩, by unfold SlotInv; decide +kernel, by decide +kernel, by decide +kernel⟩
  decide +kernel

end Sys2Proof.Tests
end

section
/-! The register file after reset, byte by byte and register by register (R540). -/

namespace Sys2Proof.Machine

@[simp] theorem RegFile.win_zeroRegs (w : Windows) : (zeroRegs w).win = w := rfl

theorem groupGet_replicate_zero (n i : Nat) : groupGet (Vector.replicate n 0) i = 0 := by
  rw [groupGet, Vector.toList_replicate, List.getD_eq_getElem?_getD, List.getElem?_getD_replicate_default_eq]

theorem byte_zeroRegs (w : Windows) (o : Nat) : (zeroRegs w).byte o = 0 := by
  unfold RegFile.byte zeroRegs
  simp only [groupGet_replicate_zero, ite_self]

/-- After reset every byte outside VER, CAP, ECAP, FECTL and IECTL is 0. -/
theorem byte_resetRegs_zero (p : Params) (w : Windows) (o : Nat) (h4 : 4 ≤ o) (hcaps : ¬ (8 ≤ o ∧ o < 0x18))
    (hfectl : ¬ (0x38 ≤ o ∧ o < 0x3C)) (hiectl : ¬ (0xA0 ≤ o ∧ o < 0xA4)) : (resetRegs p w).byte o = 0 := by
  simp only [resetRegs, Reg.off, RegFile.byte_write32, RegFile.byte_write64, byte_zeroRegs]
  rw [if_neg (by omega), if_neg (by omega), if_neg (by omega), if_neg (by omega), if_neg (by omega)]

/-- A 32-bit register read back right after its raw write. -/
theorem RegFile.read32_writeReg (r : RegFile) (x : Reg) (v : Word32) (h : x.size = 4) :
    (r.write32 x.off v).read32 x.off = v :=
  State.reg32_setReg32 (State.reset.withRegs r) x v h

/-- A 64-bit register read back right after its raw write. -/
theorem RegFile.read64_writeReg (r : RegFile) (x : Reg) (v : Word64) (h : x.size = 8) :
    (r.write64 x.off v).read64 x.off = v :=
  State.reg64_setReg64 (State.reset.withRegs r) x v h

theorem read32_ver_resetRegs (p : Params) (w : Windows) : (resetRegs p w).read32 Reg.ver.off = verValue p := by
  rw [resetRegs, RegFile.read32_write32_ne _ _ _ _ (by decide), RegFile.read32_write32_ne _ _ _ _ (by decide),
    RegFile.read32_write64_ne _ _ _ _ (by decide), RegFile.read32_write64_ne _ _ _ _ (by decide),
    RegFile.read32_writeReg _ _ _ rfl]

theorem read64_cap_resetRegs (p : Params) (w : Windows) : (resetRegs p w).read64 Reg.cap.off = capValue p := by
  rw [resetRegs, RegFile.read64_write32_ne _ _ _ _ (by decide), RegFile.read64_write32_ne _ _ _ _ (by decide),
    RegFile.read64_write64_ne _ _ _ _ (by decide), RegFile.read64_writeReg _ _ _ rfl]

theorem read64_ecap_resetRegs (p : Params) (w : Windows) : (resetRegs p w).read64 Reg.ecap.off = ecapValue p := by
  rw [resetRegs, RegFile.read64_write32_ne _ _ _ _ (by decide), RegFile.read64_write32_ne _ _ _ _ (by decide),
    RegFile.read64_writeReg _ _ _ rfl]

theorem read32_fectl_resetRegs (p : Params) (w : Windows) : (resetRegs p w).read32 Reg.fectl.off = 0x80000000 := by
  rw [resetRegs, RegFile.read32_write32_ne _ _ _ _ (by decide), RegFile.read32_writeReg _ _ _ rfl]

theorem read32_iectl_resetRegs (p : Params) (w : Windows) : (resetRegs p w).read32 Reg.iectl.off = 0x80000000 := by
  rw [resetRegs, RegFile.read32_writeReg _ _ _ rfl]

/-- After reset a flag of a word outside FECTL and IECTL is 0. -/
theorem flag_resetRegs (p : Params) (w : Windows) (f : Flag) (hfe : f.off ≠ 0x38) (hie : f.off ≠ 0xA0) :
    (resetRegs p w).flag f = false := by
  have hbit := f.bit_lt
  have hoff : f.off = 0x034 ∨ f.off = 0x09C ∨ f.off = 0xE7C ∨ f.off = 0x01C := by
    cases f <;> simp_all [Flag.off]
  rw [RegFile.flag_eq_spaceBit, RegFile.spaceBit, Flag.pos,
    byte_resetRegs_zero _ _ _ (by omega) (by omega) (by omega) (by omega)]
  exact BitVec.getLsbD_zero

end Sys2Proof.Machine
end

section
/-! The invariant of the machine, kept by every step: one relation `Kept s t` between a state and a later one, which is
reflexive and transitive; each operation of the model is shown to be `Kept`, and the step is put together from them. -/

namespace Sys2Proof.Machine

/-! ### The relation -/

/-- The capability registers of a register file hold the snapshot of the parameters (R43). -/
def CapsHold (p : Params) (r : RegFile) : Prop :=
  r.read32 0x000 = verValue p ∧ r.read64 0x008 = capValue p ∧ r.read64 0x010 = ecapValue p

/-- The model's own test of a restore image is `CapsHold`. -/
theorem capsMatch_iff (p : Params) (r : RegFile) : capsMatch p r = true ↔ CapsHold p r := by
  simp [capsMatch, CapsHold, Reg.off, and_assoc]

/-- The reset register file holds the capability snapshot. -/
theorem capsHold_resetRegs (p : Params) (w : Windows) : CapsHold p (resetRegs p w) :=
  ⟨read32_ver_resetRegs p w, read64_cap_resetRegs p w, read64_ecap_resetRegs p w⟩

/-- From `s` to `t` the parameters and the window extents stay, and what `Inv` says of the capability registers, of memory
and of the worker phase is kept. -/
structure Kept (s t : State) : Prop where
  params : t.params = s.params
  win : t.regs.win = s.regs.win
  caps : CapsHold s.params s.regs → CapsHold t.params t.regs
  mem : s.mem.wf → t.mem.wf
  phase : PhaseOk s.wphase → PhaseOk t.wphase

theorem Kept.refl (s : State) : Kept s s := ⟨rfl, rfl, id, id, id⟩

theorem Kept.trans {s t u : State} (h : Kept s t) (h' : Kept t u) : Kept s u :=
  ⟨h'.params.trans h.params, h'.win.trans h.win, h'.caps ∘ h.caps, h'.mem ∘ h.mem, h'.phase ∘ h.phase⟩

theorem Kept.ite {s t u : State} {c : Prop} [Decidable c] (h : c → Kept s t) (h' : ¬ c → Kept s u) :
    Kept s (if c then t else u) := by
  split
  · exact h ‹_›
  · exact h' ‹_›

/-- The invariant goes along with `Kept`. -/
theorem Kept.inv {s t : State} (h : Kept s t) (hi : Inv s) : Inv t :=
  ⟨by rw [h.params]; exact hi.params, h.caps hi.caps, h.mem hi.mem, h.phase hi.phase⟩

/-! ### The updates of the state -/

theorem kept_withActiveRtaddr (s : State) (x : Word64) : Kept s (s.withActiveRtaddr x) := ⟨rfl, rfl, id, id, id⟩
theorem kept_withActiveIrta (s : State) (x : Word64) : Kept s (s.withActiveIrta x) := ⟨rfl, rfl, id, id, id⟩
theorem kept_withDiag (s : State) (x : Diag) : Kept s (s.withDiag x) := ⟨rfl, rfl, id, id, id⟩
theorem kept_withWake (s : State) (x : Bool) : Kept s (s.withWake x) := ⟨rfl, rfl, id, id, id⟩
theorem kept_withShutdown (s : State) (x : Bool) : Kept s (s.withShutdown x) := ⟨rfl, rfl, id, id, id⟩
theorem kept_withStats (s : State) (x : Stats) : Kept s (s.withStats x) := ⟨rfl, rfl, id, id, id⟩
theorem kept_withInflight (s : State) (x : List InFlight) : Kept s (s.withInflight x) := ⟨rfl, rfl, id, id, id⟩
theorem kept_withOracle (s : State) (x : List MemAnswer) : Kept s (s.withOracle x) := ⟨rfl, rfl, id, id, id⟩
theorem kept_withAgenda (s : State) (x : List Event) : Kept s (s.withAgenda x) := ⟨rfl, rfl, id, id, id⟩
theorem kept_emit (s : State) (e : OutEvent) : Kept s (s.emit e) := ⟨rfl, rfl, id, id, id⟩
theorem kept_reply (s : State) (r : Reply) : Kept s (s.reply r) := ⟨rfl, rfl, id, id, id⟩

theorem kept_store (s : State) (a : Word64) (bs : List Byte) : Kept s (s.withMem (s.mem.store a bs)) :=
  ⟨rfl, rfl, id, Memory.store_wf _ _ _, id⟩

theorem kept_withPhase (s : State) (x : WPhase) (h : PhaseOk s.wphase → PhaseOk x) : Kept s (s.withPhase x) :=
  ⟨rfl, rfl, id, id, h⟩

theorem kept_withRegs (s : State) (r : RegFile) (hw : r.win = s.regs.win)
    (hc : CapsHold s.params s.regs → CapsHold s.params r) : Kept s (s.withRegs r) := ⟨rfl, hw, hc, id, id⟩

/-- The capability registers are the bytes below GCMD (R32): a register file with the same bytes there has them too. -/
theorem CapsHold.of_low {p : Params} {r r' : RegFile} (h : CapsHold p r) (low : ∀ o < 0x018, r'.byte o = r.byte o) :
    CapsHold p r' := by
  have low32 (off : Nat) (ho : off + 3 < 0x018) : r'.read32 off = r.read32 off := by
    unfold RegFile.read32
    rw [low _ (by omega), low _ (by omega), low _ (by omega), low _ ho]
  simpa only [CapsHold, RegFile.read64, low32 _ (show 0 + 3 < 0x018 by decide), low32 _ (show 8 + 3 < 0x018 by decide),
    low32 _ (show 8 + 4 + 3 < 0x018 by decide), low32 _ (show 16 + 3 < 0x018 by decide),
    low32 _ (show 16 + 4 + 3 < 0x018 by decide)] using h

theorem kept_setReg32 (s : State) (x : Reg) (v : Word32) (h : 0x018 ≤ x.off) : Kept s (s.setReg32 x v) :=
  kept_withRegs s _ rfl fun hc => hc.of_low fun o ho => by rw [RegFile.byte_write32, if_neg (by omega)]

theorem kept_setReg64 (s : State) (x : Reg) (v : Word64) (h : 0x018 ≤ x.off) : Kept s (s.setReg64 x v) :=
  kept_withRegs s _ rfl fun hc => hc.of_low fun o ho => by rw [RegFile.byte_write64, if_neg (by omega)]

/-- No flag lies in VER, CAP or ECAP. -/
theorem Flag.off_ge (f : Flag) : 0x018 ≤ f.off := by cases f <;> decide

theorem kept_setFlag (s : State) (f : Flag) (b : Bool) : Kept s (s.setFlag f b) :=
  kept_withRegs s _ rfl fun hc => hc.of_low fun o ho => by
    rw [RegFile.byte_setFlag_ne _ _ _ _ (by have := f.off_ge; omega)]

/-- A guest's 4-byte write leaves VER, CAP and ECAP: their masks are 0 (R31, R42). -/
theorem byte_semWrite32_low (p : Params) (r : RegFile) (off : Nat) (v : Word32) (o : Nat) (ho : o < 0x018) :
    (r.semWrite32 p off v).byte o = r.byte o := by
  rw [RegFile.byte_semWrite32, rwByte_below p o (by omega), rw1cByte_below o (by omega), commit_zero, ite_self]

/-- A bit of a masked write whose byte has masks 0 keeps its value, so a guest's 8-byte write leaves VER, CAP and ECAP. -/
theorem byte_semWrite64_low (p : Params) (r : RegFile) (off : Nat) (v : Word64) (h : Accepts r.win off 8) (o : Nat)
    (ho : o < 0x018) : (r.semWrite64 p off v).byte o = r.byte o := by
  refine BitVec.eq_of_getLsbD_eq fun i hi => ?_
  have hk : (8 * o + i) / 8 = o := by omega
  have hb := (RegFile.spaceBit_semWrite64 p r off (8 * o + i) v h).trans
    (maskedBit_readOnly p r off 8 v _ (by rw [hk]; exact rwByte_below p o (by omega))
      (by rw [hk]; exact rw1cByte_below o (by omega)))
  unfold RegFile.spaceBit at hb
  rwa [hk, show (8 * o + i) % 8 = i by omega] at hb

/-! ### Events and faults -/

theorem kept_raiseEvent (s : State) (k : EventKind) : Kept s (raiseEvent s k) := by
  rcases raiseEvent_cases s k with ⟨-, h⟩ | ⟨-, h⟩ <;> rw [h]
  · exact kept_setFlag _ _ _
  · exact (kept_emit _ _).trans (kept_setFlag _ _ _)

theorem kept_recordPrimaryFault (s : State) (hi lo : Word64) : Kept s (recordPrimaryFault s hi lo) := by
  rcases recordPrimaryFault_cases s hi lo with ⟨-, h⟩ | ⟨-, h⟩ <;> rw [h]
  · exact kept_setFlag _ _ _
  · refine Kept.trans ?_ (kept_raiseEvent _ _)
    refine Kept.trans ?_ (kept_setReg32 _ _ _ (by decide))
    refine Kept.trans ?_ (kept_setFlag _ _ _)
    exact (kept_setReg64 _ _ _ (by decide)).trans (kept_setReg64 _ _ _ (by decide))

theorem kept_recordAtFault (s : State) (f : AtFault) (r : FaultReq) (fpd : Bool) : Kept s (recordAtFault s f r fpd) :=
  Kept.ite (fun _ => kept_withDiag _ _) fun _ => (kept_withDiag _ _).trans (kept_recordPrimaryFault _ _ _)

theorem kept_recordIrFault (s : State) (f : IrFault) (sid : BitVec 16) (index : Option Nat) (fpd : Bool) :
    Kept s (recordIrFault s f sid index fpd) :=
  Kept.ite (fun _ => kept_withDiag _ _) fun _ => (kept_withDiag _ _).trans (kept_recordPrimaryFault _ _ _)

theorem kept_recordIqError (s : State) (e : IqError) : Kept s (recordIqError s e) :=
  (((kept_withDiag _ _).trans (kept_setFlag _ _ _)).trans (kept_setReg64 _ _ _ (by decide))).trans (kept_raiseEvent _ _)

theorem kept_stopBatch (s : State) (e : IqError) : Kept s (stopBatch s e) :=
  (kept_recordIqError _ _).trans (kept_withPhase _ _ fun _ => trivial)

theorem kept_dropFaultPending (s : State) : Kept s (dropFaultPending s) :=
  Kept.ite (fun _ => kept_setFlag _ _ _) fun _ => Kept.refl _

theorem kept_deliverOnUnmask (s : State) (k : EventKind) (oldIm newIm : Bool) :
    Kept s (deliverOnUnmask s k oldIm newIm) :=
  Kept.ite (fun _ => (kept_emit _ _).trans (kept_setFlag _ _ _)) fun _ => Kept.refl _

/-! ### Global commands and MMIO writes -/

theorem kept_setLevel (f : Flag) (on : Bool) (s : State) : Kept s (setLevel f on s) :=
  Kept.ite (fun _ => Kept.refl _) fun _ => kept_setFlag _ _ _

theorem kept_wakeIfPending (s : State) : Kept s (wakeIfPending s) :=
  Kept.ite (fun _ => kept_withWake _ _) fun _ => Kept.refl _

theorem kept_setQie (on : Bool) (s : State) : Kept s (setQie on s) :=
  Kept.ite (fun _ => Kept.refl _) fun _ =>
    Kept.ite (fun _ => (kept_setFlag _ _ _).trans (kept_wakeIfPending _)) fun _ =>
      (kept_setFlag _ _ _).trans (kept_setReg64 _ _ _ (by decide))

theorem kept_captureRoot (s : State) : Kept s (captureRoot s) :=
  (kept_withActiveRtaddr _ _).trans (kept_setFlag _ _ _)

theorem kept_captureIrt (s : State) : Kept s (captureIrt s) :=
  (kept_withActiveIrta _ _).trans (kept_setFlag _ _ _)

theorem kept_gcmdHandler (w : Word32) (s : State) : Kept s (gcmdHandler w s) := by
  refine Kept.trans ?_ (kept_setLevel _ _ _)
  refine Kept.trans ?_ (Kept.ite (fun _ => kept_captureIrt _) fun _ => Kept.refl _)
  refine Kept.trans ?_ (Kept.ite (fun _ => kept_captureRoot _) fun _ => Kept.refl _)
  exact ((kept_setQie _ _).trans (kept_setLevel _ _ _)).trans (kept_setLevel _ _ _)

theorem kept_ccmdHandler (new : Word64) (s : State) : Kept s (ccmdHandler new s) :=
  Kept.ite (fun _ => kept_setReg64 _ _ _ (by decide)) fun _ => Kept.refl _

theorem kept_iotlbHandler (new : Word64) (s : State) : Kept s (iotlbHandler new s) :=
  Kept.ite (fun _ => kept_setReg64 _ _ _ (by decide)) fun _ => Kept.refl _

theorem kept_iqtHandler (s : State) : Kept s (iqtHandler s) :=
  Kept.ite (fun _ => kept_withWake _ _) fun _ => Kept.refl _

theorem kept_icsHandler (old new : Bool) (s : State) : Kept s (icsHandler old new s) :=
  Kept.ite (fun _ => kept_setFlag _ _ _) fun _ => Kept.refl _

theorem kept_frcdHiHandler (old new : Bool) (s : State) : Kept s (frcdHiHandler old new s) :=
  Kept.ite (fun _ => (kept_setFlag _ _ _).trans (kept_dropFaultPending _)) fun _ => Kept.refl _

theorem kept_onOverlap (x : Reg) (off n : Nat) (f : State → State) (s : State) (h : ∀ t, Kept t (f t)) :
    Kept s (onOverlap x off n f s) := Kept.ite (fun _ => h s) fun _ => Kept.refl _

/-- The handlers of a write keep the invariant, in the order in which they run (R250). -/
theorem kept_runHandlers (before after : RegFile) (off n : Nat) (v : Word64) (s : State) :
    Kept s (runHandlers before after off n v s) := by
  refine Kept.trans ?_ (kept_onOverlap _ _ _ _ _ (kept_frcdHiHandler _ _))
  refine Kept.trans ?_ (kept_onOverlap _ _ _ _ _ (kept_iotlbHandler _))
  refine Kept.trans ?_ (kept_onOverlap _ _ _ _ _ fun t => kept_deliverOnUnmask t _ _ _)
  refine Kept.trans ?_ (kept_onOverlap _ _ _ _ _ (kept_icsHandler _ _))
  refine Kept.trans ?_ (kept_onOverlap _ _ _ _ _ kept_iqtHandler)
  refine Kept.trans ?_ (kept_onOverlap _ _ _ _ _ fun t => kept_deliverOnUnmask t _ _ _)
  refine Kept.trans ?_ (kept_onOverlap _ _ _ _ _ kept_dropFaultPending)
  refine Kept.trans ?_ (kept_onOverlap _ _ _ _ _ (kept_ccmdHandler _))
  exact kept_onOverlap _ _ _ _ _ (kept_gcmdHandler _)

theorem kept_mmioWrite32 (s : State) (off : Nat) (v : Word32) : Kept s (mmioWrite32 s off v) :=
  Kept.ite
    (fun _ => (kept_withRegs s _ (RegFile.win_semWrite32 _ _ _ _) fun hc =>
      hc.of_low (byte_semWrite32_low s.params s.regs off v)).trans (kept_runHandlers _ _ _ _ _ _))
    fun _ => Kept.refl _

theorem kept_mmioWrite64 (s : State) (off : Nat) (v : Word64) : Kept s (mmioWrite64 s off v) :=
  Kept.ite
    (fun ha => (kept_withRegs s _ (RegFile.win_semWrite64 _ _ _ _) fun hc =>
      hc.of_low (byte_semWrite64_low s.params s.regs off v ((accepted_eight _ _).mp ha))).trans
        (kept_runHandlers _ _ _ _ _ _))
    fun _ => Kept.refl _

/-! ### Requests -/

theorem kept_recordWalked (s : State) (req : Request) (w : Walked) : Kept s (recordWalked s req w) := by
  rcases recordWalked_cases s req w with ⟨_, -, h⟩ | ⟨_, -, h⟩ | ⟨_, _, _, _, -, h⟩ | ⟨_, _, _, _, -, h⟩ <;> rw [h]
  · exact kept_reply _ _
  · exact kept_reply _ _
  · exact (kept_recordAtFault _ _ _ _).trans (kept_reply _ _)
  · exact (kept_recordIrFault _ _ _ _ _).trans (kept_reply _ _)

theorem kept_exec_request {i : Instr} {r : Request} {s t : State} (hr : requestOf i = some r) (h : exec i s = .next t) :
    Kept s t := by
  rw [(exec_requestOf hr s).2] at h
  split at h
  · cases h
    exact (kept_withOracle _ _).trans (kept_recordWalked _ _ _)
  · cases h

/-- What the decoder reads from a call's bytes is an operation that is called at that port. -/
theorem sourceOf_of_decode_call {p : Port} {bs : List Byte} {i : Instr} (h : decode (.call p) bs = .ok i) :
    sourceOf i = some (.call p) := by
  cases p <;> simp only [decode, decodeMmio, decodeTranslate, decodeBulk, decodeIrq] at h
  all_goals
    repeat' split at h
    all_goals cases h <;> rfl

/-- An operation called at a port keeps the invariant. -/
theorem kept_exec_call {p : Port} {i : Instr} {s t : State} (hs : sourceOf i = some (.call p)) (h : exec i s = .next t) :
    Kept s t := by
  cases i with
  | mmioR32 off => cases h; exact kept_reply _ _
  | mmioR64 off => cases h; exact kept_reply _ _
  | mmioW32 off v => cases h; exact kept_mmioWrite32 _ _ _
  | mmioW64 off v => cases h; exact kept_mmioWrite64 _ _ _
  | dmaTranslate | dmaBulk | irqRemapCompat | irqRemap => exact kept_exec_request rfl h
  | _ => simp [sourceOf] at hs

theorem kept_beginRequest {s t : State} {i : Instr} (h : beginRequest s i = .next t) : Kept s t := by
  unfold beginRequest at h
  split at h
  · cases h
  · split at h
    · cases h; exact kept_withInflight _ _
    · cases h

theorem kept_recordInFlight {s t : State} {k : Nat} (h : recordInFlight s k = .next t) : Kept s t := by
  obtain ⟨x, w, -, -, ⟨_, -, rfl⟩ | ⟨-, rfl⟩⟩ := recordInFlight_next h
  · exact kept_withInflight _ _
  · exact (kept_withInflight _ _).trans (kept_recordWalked _ _ _)

/-! ### The worker -/

/-- A queue offset is a multiple of 16. -/
theorem queueOffset_aligned (v : Word64) : queueOffset v % 16 = 0 := by
  have h : (v &&& 0x7FFF0) &&& 0xF = 0 := by
    rw [BitVec.and_assoc]
    exact BitVec.and_zero
  have h' := congrArg BitVec.toNat h
  rwa [BitVec.toNat_and, show (0xF : Word64).toNat = 2 ^ 4 - 1 from rfl, Nat.and_two_pow_sub_one_eq_mod] at h'

/-- The batch checks that let a batch pass, one by one (R434, R435). -/
theorem batchCheck_eq_none {q : QSnap} (h : batchCheck q = none) :
    q.ttm ≠ 0b10 ∧ q.tail < q.size ∧ (q.wide = true → q.tail.testBit 4 = false) ∧ q.head < q.size := by
  unfold batchCheck at h
  split_ifs at h with httm htail hwide hhead
  exact ⟨httm, by omega, by simpa using hwide, by omega⟩

/-- A snapshot that passed the batch checks is coherent (R434, R435). -/
theorem snapOk_queueSnap (s : State) (hne : (queueSnap s).head ≠ (queueSnap s).tail)
    (hb : batchCheck (queueSnap s) = none) : SnapOk (queueSnap s) := by
  obtain ⟨mode, tailInside, wideTail, headInside⟩ := batchCheck_eq_none hb
  have tailAligned : (queueSnap s).tail % 16 = 0 := queueOffset_aligned _
  have ringSize : (queueSnap s).size = 4096 * 2 ^ (field (s.reg64 .iqa) 0 3).toNat := rfl
  have ringExp : (field (s.reg64 .iqa) 0 3).toNat ≤ 7 := by omega
  exact
    { headInside, tailInside, nonEmpty := hne, headAligned := queueOffset_aligned _, tailAligned
      wideAligned := fun hw => by
        have := wideTail hw
        rw [Nat.testBit_eq_decide_div_mod_eq, decide_eq_false_iff_not] at this
        omega
      ringPages := by rw [ringSize, Nat.mul_mod_right]
      ringBound := by
        rw [ringSize]
        exact Nat.mul_le_mul_left 4096 (Nat.pow_le_pow_right (by decide) ringExp)
      mode }

/-- The bytes of a batch are as many as its snapshot says (R436). -/
theorem fetchBatch_length {m : Memory} {o : List MemAnswer} {q : QSnap} {bs : List Byte}
    (h : (fetchBatch m o q).1 = some bs) : bs.length = pendingBytes q := by
  unfold fetchBatch at h
  unfold pendingBytes
  split at h
  · next hlt => rw [if_pos hlt, memRead_length h]
  · next hlt =>
    rw [if_neg hlt]
    split at h
    · cases h
    · next b1 o1 h1 =>
      have hl1 : b1.length = q.size - q.head := memRead_length (by rw [h1])
      split at h
      · next h0 => cases h; omega
      · split at h
        · cases h
        · next b2 o2 h2 =>
          have hl2 : b2.length = q.tail := memRead_length (by rw [h2])
          cases h
          rw [List.length_append, hl1, hl2]

theorem kept_checkQueue (s : State) : Kept s (checkQueue s) := by
  rcases checkQueue_cases s with h | ⟨e, -, h⟩ | ⟨-, -, hne, hb, h⟩ <;> rw [h]
  · exact kept_withPhase _ _ fun _ => trivial
  · exact kept_stopBatch _ _
  · exact kept_withPhase _ _ fun _ => snapOk_queueSnap s hne hb

theorem kept_workerIdle (s : State) : Kept s (workerIdle s) :=
  Kept.ite (fun _ => kept_withPhase _ _ fun _ => trivial) fun _ =>
    Kept.ite (fun _ => (kept_withWake _ _).trans (kept_checkQueue _)) fun _ => Kept.refl _

theorem kept_workerNext (s : State) : Kept s (workerNext s) :=
  Kept.ite (fun _ => kept_withPhase _ _ fun _ => trivial) fun _ => kept_checkQueue _

theorem kept_workerFetch (s : State) (q : QSnap) (hq : s.wphase = .fetching q) : Kept s (workerFetch s q) := by
  refine (kept_withOracle _ _).trans (kept_withPhase _ _ fun h => ?_)
  rw [State.withOracle_wphase, hq] at h
  exact ⟨h, fun b hb => fetchBatch_length hb⟩

theorem kept_workerAdvance (s : State) (q : QSnap) (bs : Option (List Byte)) (hq : s.wphase = .fetched q bs) :
    Kept s (workerAdvance s q bs) := by
  cases bs with
  | none => exact kept_stopBatch _ _
  | some b =>
    refine (kept_setReg64 s .iqh _ (by decide)).trans (kept_withPhase _ _ fun h => ?_)
    rw [State.setReg64_wphase, hq] at h
    obtain ⟨hsnap, hlen⟩ := h
    exact ⟨hsnap, by simp [splitBatch, dscSize, hlen b rfl], Nat.zero_le _, nofun⟩

/-- The worker goes on to the next descriptor of its batch: the batch stays coherent. -/
theorem kept_nextDescriptor (s : State) {q : QSnap} {ds : List Desc} {k : Nat} {stage : Stage}
    (hq : s.wphase = .dispatching q ds k stage) (hk : PhaseOk s.wphase → k < ds.length) :
    Kept s (s.withPhase (.dispatching q ds (k + 1) .start)) :=
  kept_withPhase _ _ fun h => by
    have hlt := hk h
    rw [hq] at h
    obtain ⟨hsnap, hlen, -, -⟩ := h
    exact ⟨hsnap, hlen, hlt, nofun⟩

theorem kept_workerSignal (s : State) (q : QSnap) (ds : List Desc) (k : Nat)
    (hq : s.wphase = .dispatching q ds k .signal) : Kept s (workerSignal s q ds k) := by
  have hraise : Kept s (if s.flag .iwc then s else raiseEvent (s.setFlag .iwc true) .invCompletion) :=
    Kept.ite (fun _ => Kept.refl _) fun _ => (kept_setFlag _ _ _).trans (kept_raiseEvent _ _)
  have hphase : (if s.flag .iwc then s else raiseEvent (s.setFlag .iwc true) .invCompletion).wphase =
      .dispatching q ds k .signal := by
    split
    · exact hq
    · exact (sameRest_raiseEvent _ _).wphase.trans hq
  refine hraise.trans (kept_nextDescriptor _ hphase fun h => ?_)
  rw [hphase] at h
  obtain ⟨-, -, -, hk⟩ := h
  exact hk rfl

/-! ### The descriptors -/

/-- A descriptor decodes to one of the acknowledged rows, to the wait descriptor or to a reserved row. -/
theorem decodeDesc_cases (d : Desc) {P : Instr → Prop} (ack : ∀ r ∈ ackRows d, P r.1) (wait : P (.dscInvWait d))
    (rsvd : ∀ i ∈ rsvdRows d, P i) : P (decodeDesc d) := by
  simp only [ackRows, rsvdRows, List.mem_cons, List.not_mem_nil, or_false, forall_eq_or_imp, forall_eq] at ack rsvd
  obtain ⟨cc, iotlb, devTlb, iec, pIotlb, pc, pDevTlb⟩ := ack
  obtain ⟨r00, r09, r0A, r0C, t4, t5, t6⟩ := rsvd
  unfold decodeDesc
  repeat' apply iteInduction <;> intro
  all_goals assumption

/-- What the meaning of a descriptor is: the acknowledgement of its type, the wait descriptor's or the rejection of its
type (R446, R447, R450). -/
theorem exec_decodeDesc_cases (d : Desc) (s : State) :
    (∃ u, exec (decodeDesc d) s = acknowledge u s) ∨ exec (decodeDesc d) s = execDscInvWait d s ∨
      exec (decodeDesc d) s = rejectType s := by
  refine decodeDesc_cases d (P := fun i => (∃ u, exec i s = acknowledge u s) ∨ exec i s = execDscInvWait d s ∨
    exec i s = rejectType s) ?_ (.inr (.inl rfl)) ?_
  · intro r hr
    have h : exec r.1 s = acknowledge r.2 s := by
      revert r
      simp only [ackRows, List.forall_mem_cons]
      exact ⟨rfl, rfl, rfl, rfl, rfl, rfl, rfl, by simp⟩
    exact .inl ⟨_, h⟩
  · intro i hi
    have h : exec i s = rejectType s := by
      revert i
      simp only [rsvdRows, List.forall_mem_cons]
      exact ⟨rfl, rfl, rfl, rfl, rfl, rfl, rfl, by simp⟩
    exact .inr (.inr h)

/-- The status write of a wait descriptor keeps the invariant and the worker phase. -/
theorem kept_waitStatusWrite (s : State) (d : Desc) :
    Kept s (waitStatusWrite s d).1 ∧ (waitStatusWrite s d).1.wphase = s.wphase := by
  unfold waitStatusWrite
  split
  · rcases memWrite_cases s (waitStatusAddr d) (waitStatusBytes d) with ⟨-, h⟩ | ⟨-, h⟩ <;> rw [h]
    · exact ⟨(kept_emit _ _).trans (kept_withOracle _ _), rfl⟩
    · exact ⟨((kept_emit _ _).trans (kept_withOracle _ _)).trans (kept_store _ _ _), rfl⟩
  · exact ⟨Kept.refl s, rfl⟩

section
variable {s t : State} {q : QSnap} {ds : List Desc} {k : Nat}

theorem kept_acknowledge {u : AckType} (hq : s.wphase = .dispatching q ds k .start) (hk : k < ds.length)
    (h : acknowledge u s = .next t) : Kept s t := by
  simp only [acknowledge, hq] at h
  cases h
  exact (kept_withStats _ _).trans (kept_nextDescriptor _ hq fun _ => hk)

theorem kept_rejectType (hq : s.wphase = .dispatching q ds k .start) (h : rejectType s = .next t) : Kept s t := by
  simp only [rejectType, hq] at h
  cases h
  exact kept_stopBatch _ _

theorem kept_execDscInvWait {d : Desc} (hq : s.wphase = .dispatching q ds k .start) (hk : k < ds.length)
    (h : execDscInvWait d s = .next t) : Kept s t := by
  obtain ⟨hkept, hphase⟩ := kept_waitStatusWrite s d
  simp only [execDscInvWait, hq] at h
  split at h
  · cases h; exact kept_stopBatch _ _
  · split at h
    · next s1 hw =>
      rw [hw] at hkept
      cases h; exact hkept.trans (kept_stopBatch _ _)
    · next s1 hw =>
      rw [hw] at hkept hphase
      split at h
      · cases h
        refine hkept.trans (kept_withPhase _ _ fun hp => ?_)
        rw [hphase, hq] at hp
        obtain ⟨hsnap, hlen, hle, -⟩ := hp
        exact ⟨hsnap, hlen, hle, fun _ => hk⟩
      · cases h
        exact hkept.trans (kept_nextDescriptor _ (hphase.trans hq) fun _ => hk)

/-- The dispatch of a descriptor of the worker's batch keeps the invariant. -/
theorem kept_dispatch {d : Desc} (hq : s.wphase = .dispatching q ds k .start) (hd : ds[k]? = some d)
    (h : exec (decodeDesc d) s = .next t) : Kept s t := by
  have hk : k < ds.length := (List.getElem?_eq_some_iff.mp hd).1
  rcases exec_decodeDesc_cases d s with ⟨u, e⟩ | e | e <;> rw [e] at h
  · exact kept_acknowledge hq hk h
  · exact kept_execDscInvWait hq hk h
  · exact kept_rejectType hq h

end

theorem kept_workerStep {s t : State} (h : workerStep s = .next t) : Kept s t := by
  rcases workerStep_cases s with ⟨-, e⟩ | ⟨q, hq, e⟩ | ⟨q, bs, hq, e⟩ | ⟨q, ds, k, hq, e⟩ | ⟨q, ds, k, d, hq, hd, e⟩ |
    ⟨q, ds, k, -, -, e⟩ | ⟨-, e⟩ <;> rw [e] at h
  · cases h; exact kept_workerIdle _
  · cases h; exact kept_workerFetch _ _ hq
  · cases h; exact kept_workerAdvance _ _ _ hq
  · cases h; exact kept_workerSignal _ _ _ _ hq
  · exact kept_dispatch hq hd h
  · cases h; exact kept_workerNext _
  · cases h; exact Kept.refl _

/-! ### The host's steps and the step -/

/-- A host step sets every item of the device that `Inv` speaks of: a register file with the device's extents and
capability registers, and an idle worker. -/
theorem kept_hostStep {s t : State} (params : t.params = s.params) (win : t.regs.win = s.regs.win)
    (caps : CapsHold s.params t.regs) (mem : t.mem = s.mem) (phase : t.wphase = .idle) : Kept s t :=
  ⟨params, win, fun _ => by rw [params]; exact caps, fun h => by rw [mem]; exact h, fun _ => by rw [phase]; trivial⟩

theorem kept_resetDevice (s : State) : Kept s (resetDevice s) := by
  apply kept_hostStep <;> simp [resetDevice, capsHold_resetRegs]

theorem kept_hostReset {s t : State} (h : hostReset s = .next t) : Kept s t := by
  unfold hostReset at h
  split at h <;> cases h
  exact kept_resetDevice s

/-- A restore that is taken is of an image whose capability registers are the device's (R545). -/
theorem capsHold_of_imageFits {p : Params} {w : Windows} {img : RestoreImage} (h : imageFits p w img = true) :
    CapsHold p (blobRegs w img.g0 img.g1) :=
  (capsMatch_iff _ _).mp (Bool.and_eq_true_iff.mp h).2

@[simp] theorem win_blobRegs (w : Windows) (g0 g1 : List Byte) : (blobRegs w g0 g1).win = w := rfl

theorem kept_restoreDevice (s : State) {img : RestoreImage} (h : imageFits s.params s.regs.win img = true) :
    Kept s (restoreDevice s img) := by
  apply kept_hostStep <;> simp [restoreDevice, capsHold_of_imageFits h]

theorem kept_hostRestore {s t : State} {img : RestoreImage} (h : hostRestore s img = .next t) : Kept s t := by
  unfold hostRestore at h
  split at h
  · cases h
  · split at h <;> cases h
    next hfits => exact kept_restoreDevice s hfits

theorem kept_oddAccess {s t : State} {isWrite : Bool} {n : Nat} (h : oddAccess isWrite n s = .next t) : Kept s t := by
  unfold oddAccess at h
  split at h
  · cases h
  · split at h <;> cases h
    · exact Kept.refl _
    · exact kept_reply _ _

/-- A scheduled call that is taken is of an operation its bytes decode to. -/
theorem onDecoded_next {src : Source} {bs : List Byte} {s t : State} {k : Instr → State → Out}
    (h : onDecoded src bs s k = .next t) : ∃ i, decode src bs = .ok i ∧ k i s = .next t := by
  unfold onDecoded at h
  split at h
  · exact ⟨_, ‹_›, h⟩
  · cases h

theorem kept_runEvent {e : Event} {s t : State} (h : runEvent e s = .next t) : Kept s t := by
  cases e with
  | call p bs =>
    obtain ⟨i, hd, hx⟩ := onDecoded_next h
    exact kept_exec_call (sourceOf_of_decode_call hd) hx
  | oddAccess isWrite off n => exact kept_oddAccess h
  | begin p bs =>
    obtain ⟨i, -, hb⟩ := onDecoded_next (k := fun i t => beginRequest t i) h
    exact kept_beginRequest hb
  | snapshot k =>
    obtain ⟨x, -, rfl⟩ := snapshotInFlight_next h
    exact kept_withInflight _ _
  | walk k =>
    obtain ⟨x, -, -, rfl⟩ := walkInFlight_next h
    exact (kept_withOracle _ _).trans (kept_withInflight _ _)
  | record k => exact kept_recordInFlight h
  | worker => exact kept_workerStep h
  | guestStore a bs => cases h; exact kept_store _ _ _
  | reset => exact kept_hostReset h
  | restore img => exact kept_hostRestore h
  | shutdown => cases h; exact kept_withShutdown _ _

theorem kept_step {s t : State} (h : step s = .next t) : Kept s t := by
  rcases step_cases s with ⟨-, e⟩ | ⟨e, rest, -, he⟩
  · exact kept_workerStep (e ▸ h)
  · exact (kept_withAgenda _ _).trans (kept_runEvent (he ▸ h))

end Sys2Proof.Machine
end

section
/-! The mask tables: which register of the map holds a byte, and the constant masks bit by bit (R12, R31, R32, R189). -/

namespace Sys2Proof.Machine

/-! ### The bytes of the mask tables -/

/-- The declared mask table is the model's list of masked registers, row by row (R32). -/
theorem maskTable_eq (p : Params) :
    maskTable p = maskedRegs.map fun x => (x.off, x.size, x.rwMask p, x.rw1cMask) := rfl

/-- The masked registers do not overlap (R32). -/
theorem maskedRegs_apart : ∀ x ∈ maskedRegs, ∀ y ∈ maskedRegs, x = y ∨ x.off + x.size ≤ y.off ∨ y.off + y.size ≤ x.off := by
  decide

theorem Reg.covers_iff (x : Reg) (off : Nat) : x.covers off = true ↔ x.off ≤ off ∧ off < x.off + x.size := by
  simp [Reg.covers]

/-- A byte of a masked register is found to be that register's. -/
theorem find_maskedRegs_eq_some {x : Reg} {off : Nat} (hx : x ∈ maskedRegs) (hc : x.covers off = true) :
    maskedRegs.find? (·.covers off) = some x := by
  obtain ⟨y, hy⟩ : ∃ y, maskedRegs.find? (·.covers off) = some y :=
    Option.isSome_iff_exists.mp (List.find?_isSome.mpr ⟨x, hx, hc⟩)
  have hcy : y.covers off = true := List.find?_some (p := fun z : Reg => z.covers off) hy
  rw [Reg.covers_iff] at hc hcy
  rcases maskedRegs_apart x hx y (List.mem_of_find?_eq_some hy) with rfl | h | h
  · exact hy
  · omega
  · omega

/-- The mask bytes of a masked register are those of its masks (R31). -/
theorem maskBytes_of_mem {x : Reg} (hx : x ∈ maskedRegs) (p : Params) (k : Nat) (hk : k < x.size) :
    rwByte p (x.off + k) = byteOf (x.rwMask p) k ∧ rw1cByte (x.off + k) = byteOf x.rw1cMask k := by
  have hfind := find_maskedRegs_eq_some hx ((x.covers_iff (x.off + k)).mpr ⟨by omega, by omega⟩)
  simp only [rwByte, rw1cByte, hfind, Nat.add_sub_cancel_left, and_self]

/-- A byte of no masked register is read-only (R31). -/
theorem maskBytes_of_uncovered {o : Nat} (h : ∀ x ∈ maskedRegs, o < x.off ∨ x.off + x.size ≤ o) (p : Params) :
    rwByte p o = 0 ∧ rw1cByte o = 0 := by
  have hfind : maskedRegs.find? (·.covers o) = none := List.find?_eq_none.mpr fun x hx hc => by
    have := h x hx
    rw [Reg.covers_iff] at hc
    omega
  simp only [rwByte, rw1cByte, hfind, and_self]

/-- No bit of a register is both RW and RW1C (R32). -/
theorem rwMask_and_rw1cMask (p : Params) (x : Reg) : x.rwMask p &&& x.rw1cMask = 0 := by
  have : x.rwMask p = 0 ∨ x.rw1cMask = 0 := by cases x <;> simp [Reg.rwMask, Reg.rw1cMask]
  rcases this with h | h <;> rw [h]
  · exact BitVec.zero_and
  · exact BitVec.and_zero

theorem byteOf_and {w : Nat} (a b : BitVec w) (k : Nat) : byteOf a k &&& byteOf b k = byteOf (a &&& b) k :=
  BitVec.extractLsb'_and.symm

theorem rwByte_and_rw1cByte (p : Params) (o : Nat) : rwByte p o &&& rw1cByte o = 0 := by
  unfold rwByte rw1cByte
  cases maskedRegs.find? (·.covers o) with
  | none => exact BitVec.zero_and
  | some x =>
    simp only [byteOf_and, rwMask_and_rw1cMask]
    exact BitVec.extractLsb'_zero

/-! ### Masks bit by bit -/

/-- The bits of a mask of the `n` lowest bits. -/
theorem lowMask_getLsbD (n j : Nat) (hj : j < 64) : (BitVec.ofNat 64 (2 ^ n - 1)).getLsbD j = decide (j < n) := by
  rw [BitVec.getLsbD_ofNat, Nat.testBit_two_pow_sub_one, decide_eq_true hj, Bool.true_and]

/-- HAW_MASK is the bits from 12 to P_HAW - 1 (R12). -/
theorem hawMask_getLsbD (p : Params) (j : Nat) (hj : j < 64) :
    (hawMask p).getLsbD j = (decide (12 ≤ j) && decide (j < p.haw)) := by
  have hpage : (0xFFF#64).getLsbD j = decide (j < 12) := lowMask_getLsbD 12 j hj
  rw [hawMask, BitVec.getLsbD_and, BitVec.getLsbD_not, hpage, lowMask_getLsbD _ _ hj, decide_eq_true hj, Bool.true_and,
    Bool.and_comm]
  simp only [← decide_not, Nat.not_lt]

/-- CTX_QW1_VALID is the bits 6:0 and the domain ID's from bit 8 (R12, R184). -/
theorem ctxQw1Valid_getLsbD (p : Params) (j : Nat) (hj : j < 64) :
    (ctxQw1Valid p).getLsbD j = decide (j < 7 ∨ (8 ≤ j ∧ j < 8 + didWidth p)) := by
  have hlow : (0x7F#64).getLsbD j = decide (j < 7) := lowMask_getLsbD 7 j hj
  rw [ctxQw1Valid, BitVec.getLsbD_or, BitVec.getLsbD_shiftLeft, hlow, lowMask_getLsbD _ _ (by omega)]
  rw [Bool.eq_iff_iff]
  simp only [Bool.or_eq_true, Bool.and_eq_true, Bool.not_eq_true', decide_eq_true_eq, decide_eq_false_iff_not]
  omega

/-- The constants of R189, bit by bit. -/
theorem slMask_bits (j : Nat) (hj : j < 64) :
    (0x000FFFFFFFFFF000 : Word64).getLsbD j = decide (12 ≤ j ∧ j < 52) ∧
    (0x80 : Word64).getLsbD j = decide (j = 7) ∧
    (0x3FFFF000 : Word64).getLsbD j = decide (12 ≤ j ∧ j < 30) ∧
    (0x1FF000 : Word64).getLsbD j = decide (12 ≤ j ∧ j < 21) := by
  have h : ∀ j : Fin 64, (0x000FFFFFFFFFF000 : Word64).getLsbD j.val = decide (12 ≤ j.val ∧ j.val < 52) ∧
      (0x80 : Word64).getLsbD j.val = decide (j.val = 7) ∧
      (0x3FFFF000 : Word64).getLsbD j.val = decide (12 ≤ j.val ∧ j.val < 30) ∧
      (0x1FF000 : Word64).getLsbD j.val = decide (12 ≤ j.val ∧ j.val < 21) := by decide
  exact h ⟨j, hj⟩

/-- HAW_RSVD is the address bits from P_HAW to 51 (R189). -/
theorem hawRsvd_getLsbD (p : Params) (j : Nat) (hj : j < 64) :
    (hawRsvd p).getLsbD j = decide (12 ≤ j ∧ p.haw ≤ j ∧ j < 52) := by
  rw [hawRsvd, BitVec.getLsbD_and, BitVec.getLsbD_not, hawMask_getLsbD p j hj, (slMask_bits j hj).1]
  rw [Bool.eq_iff_iff]
  simp only [Bool.and_eq_true, Bool.not_eq_true', Bool.and_eq_false_iff, decide_eq_true_eq, decide_eq_false_iff_not]
  omega

/-- The reserved bits of an entry at each level (R189). -/
theorem slRsvdMask_getLsbD (p : Params) (cap e : Word64) (level j : Nat) (hj : j < 64) :
    (slRsvdMask p cap e level).getLsbD j = decide (
      (12 ≤ j ∧ p.haw ≤ j ∧ j < 52) ∨
      (j = 7 ∧ (level = 3 ∨ level = 4 ∨ (level = 2 ∧ e.getLsbD 7 = true ∧ cap.getLsbD 35 = false) ∨
        (level = 1 ∧ e.getLsbD 7 = true ∧ cap.getLsbD 34 = false))) ∨
      (12 ≤ j ∧ j < 30 ∧ level = 2 ∧ e.getLsbD 7 = true) ∨
      (12 ≤ j ∧ j < 21 ∧ level = 1 ∧ e.getLsbD 7 = true)) := by
  obtain ⟨-, hps, h1g, h2m⟩ := slMask_bits j hj
  have hzero : (0 : Word64).getLsbD j = false := BitVec.getLsbD_zero
  rw [slRsvdMask, BitVec.getLsbD_or, hawRsvd_getLsbD p j hj, Bool.eq_iff_iff]
  unfold entryPs
  split_ifs with top huge cap1g large cap2m
  all_goals
    simp only [BitVec.getLsbD_or, hps, h1g, h2m, hzero]
    grind

end Sys2Proof.Machine
end

section
/-! The capability registers bit by bit (R12, R40, R44, R45). -/

namespace Sys2Proof.Machine

/-- A bit of a quadword shifted up. -/
theorem shiftedUp_getLsbD (x : Word64) (lo j : Nat) (hj : j < 64) :
    (x <<< lo).getLsbD j = (decide (lo ≤ j) && x.getLsbD (j - lo)) := by
  rw [BitVec.getLsbD_shiftLeft, decide_eq_true hj, Bool.true_and]
  simp only [← decide_not, Nat.not_lt]

/-- A one-bit field put at bit `lo` of a quadword. -/
theorem placedBool_getLsbD (b : Bool) (lo j : Nat) (hj : j < 64) :
    (boolBits 64 b <<< lo).getLsbD j = (decide (j = lo) && b) := by
  rw [shiftedUp_getLsbD _ _ _ hj]
  cases b with
  | false => rw [show boolBits 64 false = 0#64 from rfl, BitVec.getLsbD_zero, Bool.and_false, Bool.and_false]
  | true =>
    rw [show boolBits 64 true = 1#64 from rfl, BitVec.getLsbD_one, Bool.eq_iff_iff]
    simp only [Bool.and_eq_true, decide_eq_true_eq, and_true]
    omega

/-- SAGAW, bit by bit: MAX_LEVEL is at least 3, at least 4 from 40 address bits on, and 5 from 49 on (R12, R44). -/
theorem sagaw_getLsbD (p : Params) (h : p.mgaw ≤ 57) (j : Nat) (hj : j < 64) :
    (sagaw p).getLsbD j = decide (j = 1 ∨ (j = 2 ∧ 39 < p.mgaw) ∨ (j = 3 ∧ 48 < p.mgaw)) := by
  have h1 : 1 ≤ maxLevel p - 2 := by unfold maxLevel; omega
  have h2 : 2 ≤ maxLevel p - 2 ↔ 39 < p.mgaw := by unfold maxLevel; omega
  have h3 : 3 ≤ maxLevel p - 2 ↔ 48 < p.mgaw := by unfold maxLevel; omega
  rw [sagaw, BitVec.getLsbD_or, BitVec.getLsbD_or, Bool.eq_iff_iff]
  simp only [placedBool_getLsbD _ _ _ hj, h1, h2, h3, Bool.or_eq_true, Bool.and_eq_true,
    decide_eq_true_eq, decide_true, and_true]
  omega

/-- VER is the two version fields (R40). -/
theorem verValue_fields (p : Params) :
    field (verValue p) 0 4 = p.verMinor ∧ field (verValue p) 4 4 = p.verMajor ∧ field (verValue p) 8 24 = 0 := by
  have bit (j : Nat) (hj : j < 32) :
      (verValue p).getLsbD j = (decide (4 ≤ j) && p.verMajor.getLsbD (j - 4) || p.verMinor.getLsbD j) := by
    rw [verValue, BitVec.getLsbD_or, BitVec.getLsbD_shiftLeft, BitVec.getLsbD_setWidth, BitVec.getLsbD_setWidth]
    simp only [hj, show j - 4 < 32 by omega, ← decide_not, Nat.not_lt, decide_true, Bool.true_and]
  have above (v : BitVec 4) (i : Nat) (h : 4 ≤ i) : v.getLsbD i = false := BitVec.getLsbD_of_ge _ _ h
  refine ⟨?_, ?_, ?_⟩ <;> refine BitVec.eq_of_getLsbD_eq fun i hi => ?_ <;>
    rw [field, BitVec.getLsbD_extractLsb', bit _ (by omega), decide_eq_true hi, Bool.true_and]
  · simp [show ¬ 4 ≤ i by omega]
  · simp
  · simp [above p.verMinor (8 + i) (by omega), above p.verMajor (8 + i - 4) (by omega)]

/-- A number of fewer than `n` bits has none from bit `n` on. -/
theorem testBit_of_lt {x n i : Nat} (h : x < 2 ^ n) (hi : n ≤ i) : x.testBit i = false :=
  Nat.testBit_lt_two_pow (h.trans_le (Nat.pow_le_pow_right (by decide) hi))

/-- CAP, bit by bit (R44): its five fields do not meet. -/
theorem capValue_getLsbD (p : Params) (h : p.mgaw ≤ 57) (j : Nat) (hj : j < 64) :
    (capValue p).getLsbD j =
      if j < 3 then p.nd.getLsbD j
      else if j = 9 then true
      else if j = 10 then decide (39 < p.mgaw)
      else if j = 11 then decide (48 < p.mgaw)
      else if 16 ≤ j ∧ j < 22 then (p.mgaw - 1).testBit (j - 16)
      else if 24 ≤ j ∧ j < 34 then (0xE7 : Nat).testBit (j - 24)
      else if 34 ≤ j ∧ j < 36 then p.sllps.getLsbD (j - 34)
      else false := by
  have nd : (p.nd.setWidth 64).getLsbD j = p.nd.getLsbD j := by
    rw [BitVec.getLsbD_setWidth, decide_eq_true hj, Bool.true_and]
  have ndEnd : 3 ≤ j → p.nd.getLsbD j = false := BitVec.getLsbD_of_ge _ _
  have mgawEnd : 22 ≤ j → (p.mgaw - 1).testBit (j - 16) = false := fun hge =>
    testBit_of_lt (n := 6) (by omega) (by omega)
  have mamvEnd : 34 ≤ j → (0xE7 : Nat).testBit (j - 24) = false := fun hge =>
    testBit_of_lt (n := 10) (by decide) (by omega)
  have sllpsEnd : 36 ≤ j → p.sllps.getLsbD (j - 34) = false := fun hge => BitVec.getLsbD_of_ge _ _ (by omega)
  have sagawBit : (sagaw p <<< 8).getLsbD j =
      decide (j = 9 ∨ (j = 10 ∧ 39 < p.mgaw) ∨ (j = 11 ∧ 48 < p.mgaw)) := by
    rw [shiftedUp_getLsbD _ _ _ hj, sagaw_getLsbD p h _ (by omega), Bool.eq_iff_iff]
    simp only [Bool.and_eq_true, decide_eq_true_eq]
    omega
  have mgaw : (BitVec.ofNat 64 (p.mgaw - 1)).getLsbD (j - 16) = (p.mgaw - 1).testBit (j - 16) := by
    rw [BitVec.getLsbD_ofNat, decide_eq_true (by omega), Bool.true_and]
  have mamv : (0xE7#64).getLsbD (j - 24) = (0xE7 : Nat).testBit (j - 24) := by
    rw [BitVec.getLsbD_ofNat, decide_eq_true (by omega), Bool.true_and]
  have sllps : (p.sllps.setWidth 64).getLsbD (j - 34) = p.sllps.getLsbD (j - 34) := by
    rw [BitVec.getLsbD_setWidth, decide_eq_true (by omega), Bool.true_and]
  rw [capValue, BitVec.getLsbD_or, BitVec.getLsbD_or, BitVec.getLsbD_or, BitVec.getLsbD_or, nd, sagawBit,
    shiftedUp_getLsbD _ _ _ hj, shiftedUp_getLsbD _ _ _ hj, shiftedUp_getLsbD _ _ _ hj, mgaw, mamv, sllps]
  grind

/-- ECAP, bit by bit (R45): its fields do not meet. -/
theorem ecapValue_getLsbD (p : Params) (j : Nat) (hj : j < 64) :
    (ecapValue p).getLsbD j =
      if j = 1 ∨ j = 3 then true
      else if j = 4 then p.eim
      else if j = 6 then p.pt
      else if 8 ≤ j ∧ j < 18 then (0xE5 : Nat).testBit (j - 8)
      else if j = 42 then p.pds
      else if j = 50 then p.adms
      else false := by
  have one (lo : Nat) : (1#64 <<< lo).getLsbD j = decide (j = lo) := by
    have := placedBool_getLsbD true lo j hj
    rwa [Bool.and_true] at this
  have iroEnd : 18 ≤ j → (0xE5 : Nat).testBit (j - 8) = false := fun hge => testBit_of_lt (n := 10) (by decide) (by omega)
  have iro : (0xE5#64).getLsbD (j - 8) = (0xE5 : Nat).testBit (j - 8) := by
    rw [BitVec.getLsbD_ofNat, decide_eq_true (by omega), Bool.true_and]
  simp only [ecapValue, BitVec.getLsbD_or, one, placedBool_getLsbD _ _ _ hj, shiftedUp_getLsbD 0xE5#64 _ _ hj, iro]
  grind

end Sys2Proof.Machine
end

section
/-! The statements of the scope family: the invariant, the masks, the reset state and the capability registers. -/

open Sys2Proof Sys2Proof.Machine

namespace Sys2Proof.Scope

/-- Settles O57: the invariant goes along with `Kept`, and every step is `Kept`. -/
theorem invKept : Obligations.InvKept := by
  intro s t hi h
  have hk := kept_step h
  exact ⟨hk.inv hi, hk.params, hk.win⟩

/-- Settles O53, register by register of the reset register file. -/
theorem resetState : Obligations.ResetState := by
  refine ⟨rfl, fun p w => ⟨rfl, rfl, read32_ver_resetRegs p w, read64_cap_resetRegs p w, read64_ecap_resetRegs p w,
    read32_fectl_resetRegs p w, read32_iectl_resetRegs p w, byte_resetRegs_zero p w, rfl, rfl, rfl, rfl, rfl, rfl, ?_, rfl⟩⟩
  intro u
  cases u <;> rfl

/-- Settles O6, by running the step on a schedule that begins with the call. -/
theorem stepRunsCall : Obligations.StepRunsCall := by
  intro s rest p bs i hagenda hdecode _
  simp only [step, hagenda, runEvent, onDecoded, hdecode, State.withAgenda]

/-- The invariants right after reset, for one choice of parameters in range. -/
theorem inv_resetWith (p : Params) (w : Windows) (h : paramsOk p = true) :
    Inv (resetWith p w) ∧ SlotInv (resetWith p w) := by
  refine ⟨⟨h, capsHold_resetRegs p w, reset_mem_wf, trivial⟩, ?_⟩
  have hppf : (resetWith p w).flag .ppf = false := flag_resetRegs p w .ppf (by decide) (by decide)
  have hf : (resetWith p w).flag .frcdF = false := flag_resetRegs p w .frcdF (by decide) (by decide)
  exact hppf.trans hf.symm

/-- Settles O56: the default parameters are one case of it. -/
theorem invAtReset : Obligations.InvAtReset :=
  ⟨inv_resetWith, inv_resetWith _ _ (by decide)⟩

/-- Settles O12: a byte of the mask tables is found through the one masked register that holds it. -/
theorem maskTable : Obligations.MaskTable := by
  intro p
  refine ⟨?_, ?_, rwByte_and_rw1cByte p, fun _ => hawMask_getLsbD p, rfl, ctxQw1Valid_getLsbD p,
    fun _ cap e level j hj => slRsvdMask_getLsbD p cap e level j hj⟩
  · rw [maskTable_eq, List.forall_mem_map]
    exact fun x hx k hk => maskBytes_of_mem hx p k hk
  · intro o h
    rw [maskTable_eq, List.forall_mem_map] at h
    exact maskBytes_of_uncovered h p

/-- Settles O54: of the ranges of R11 only the bound on P_MGAW is needed, so that MGAW fits its field. -/
theorem capabilityFields : Obligations.CapabilityFields := by
  intro p hp
  simp only [paramsOk, Bool.and_eq_true, decide_eq_true_eq] at hp
  obtain ⟨⟨⟨⟨-, -⟩, -⟩, hmgaw⟩, -⟩ := hp
  obtain ⟨minor, major, rest⟩ := verValue_fields p
  exact ⟨minor, major, rest, capValue_getLsbD p hmgaw, ecapValue_getLsbD p⟩

end Sys2Proof.Scope
end

section
/-! The active pointers (R71, R72): one relation `SamePointers s t` between a state and a later one; each operation but
SRTP, SIRTP, reset and restore is shown to keep both pointers, and those four are shown to set them as their rules say. -/

namespace Sys2Proof.Machine

/-! ### The relation -/

/-- Neither active pointer changes from `s` to `t`. -/
structure SamePointers (s t : State) : Prop where
  root : t.activeRtaddr = s.activeRtaddr
  irt : t.activeIrta = s.activeIrta

theorem SamePointers.refl (s : State) : SamePointers s s := ⟨rfl, rfl⟩

theorem SamePointers.trans {s t u : State} (h : SamePointers s t) (h' : SamePointers t u) : SamePointers s u :=
  ⟨h'.root.trans h.root, h'.irt.trans h.irt⟩

theorem SamePointers.ite {s t u : State} {c : Prop} [Decidable c] (h : SamePointers s t) (h' : SamePointers s u) :
    SamePointers s (if c then t else u) := by
  split
  · exact h
  · exact h'

/-- The operations that only write registers and emit keep the pointers. -/
theorem SameRest.samePointers {s t : State} (h : SameRest s t) : SamePointers s t := ⟨h.activeRtaddr, h.activeIrta⟩

theorem samePointers_setFlag (s : State) (f : Flag) (b : Bool) : SamePointers s (s.setFlag f b) :=
  (sameRest_setFlag s f b).samePointers

theorem samePointers_setReg64 (s : State) (x : Reg) (v : Word64) : SamePointers s (s.setReg64 x v) :=
  (sameRest_setReg64 s x v).samePointers

theorem samePointers_withPhase (s : State) (x : WPhase) : SamePointers s (s.withPhase x) := ⟨rfl, rfl⟩
theorem samePointers_withWake (s : State) (x : Bool) : SamePointers s (s.withWake x) := ⟨rfl, rfl⟩
theorem samePointers_withOracle (s : State) (x : List MemAnswer) : SamePointers s (s.withOracle x) := ⟨rfl, rfl⟩
theorem samePointers_withInflight (s : State) (x : List InFlight) : SamePointers s (s.withInflight x) := ⟨rfl, rfl⟩
theorem samePointers_reply (s : State) (x : Reply) : SamePointers s (s.reply x) := ⟨rfl, rfl⟩

theorem samePointers_stopBatch (s : State) (e : IqError) : SamePointers s (stopBatch s e) :=
  (sameRest_recordIqError s e).samePointers.trans (samePointers_withPhase _ _)

/-! ### Global commands -/

/-- The active pointers with the live registers that SRTP and SIRTP copy. -/
structure Pointers where
  root : Word64
  irt : Word64
  liveRoot : Word64
  liveIrt : Word64

/-- The view of a state through those four values. -/
def State.pointers (s : State) : Pointers := ⟨s.activeRtaddr, s.activeIrta, s.reg64 .rtaddr, s.reg64 .irta⟩

/-- No flag lies in RTADDR or IRTA. -/
theorem Flag.off_apart_live (f : Flag) :
    (f.off + 4 ≤ Reg.rtaddr.off ∨ Reg.rtaddr.off + 8 ≤ f.off) ∧ (f.off + 4 ≤ Reg.irta.off ∨ Reg.irta.off + 8 ≤ f.off) := by
  cases f <;> decide

@[simp] theorem pointers_setFlag (s : State) (f : Flag) (b : Bool) : (s.setFlag f b).pointers = s.pointers := by
  obtain ⟨hroot, hirt⟩ := f.off_apart_live
  unfold State.pointers
  rw [State.reg64_setFlag_ne _ _ _ _ (by omega), State.reg64_setFlag_ne _ _ _ _ (by omega), State.setFlag_activeRtaddr,
    State.setFlag_activeIrta]

@[simp] theorem pointers_setIqh (s : State) (v : Word64) : (s.setReg64 .iqh v).pointers = s.pointers := by
  have hroot : (s.setReg64 .iqh v).reg64 .rtaddr = s.reg64 .rtaddr := RegFile.read64_write64_ne _ _ _ _ (by decide)
  have hirt : (s.setReg64 .iqh v).reg64 .irta = s.reg64 .irta := RegFile.read64_write64_ne _ _ _ _ (by decide)
  unfold State.pointers
  rw [hroot, hirt, State.setReg64_activeRtaddr, State.setReg64_activeIrta]

@[simp] theorem pointers_setLevel (f : Flag) (on : Bool) (s : State) : (setLevel f on s).pointers = s.pointers := by
  unfold setLevel
  split
  · rfl
  · exact pointers_setFlag _ _ _

@[simp] theorem pointers_wakeIfPending (s : State) : (wakeIfPending s).pointers = s.pointers := by
  unfold wakeIfPending
  split <;> rfl

@[simp] theorem pointers_setQie (on : Bool) (s : State) : (setQie on s).pointers = s.pointers := by
  unfold setQie
  split_ifs
  · rfl
  · rw [pointers_wakeIfPending, pointers_setFlag]
  · rw [pointers_setIqh, pointers_setFlag]

/-- SRTP copies RTADDR to the active root pointer (R405). -/
@[simp] theorem pointers_captureRoot (s : State) :
    (captureRoot s).pointers = { s.pointers with root := s.pointers.liveRoot } := pointers_setFlag _ _ _

/-- SIRTP copies IRTA to the active interrupt-remap-table pointer (R406). -/
@[simp] theorem pointers_captureIrt (s : State) :
    (captureIrt s).pointers = { s.pointers with irt := s.pointers.liveIrt } := pointers_setFlag _ _ _

/-- What a GCMD write does to the pointers: only SRTP and SIRTP act on them, and neither acts on a live register (R401). -/
theorem pointers_gcmdHandler (w : Word32) (s : State) :
    (gcmdHandler w s).pointers =
      { s.pointers with
        root := if w.getLsbD 30 then s.pointers.liveRoot else s.pointers.root
        irt := if w.getLsbD 24 then s.pointers.liveIrt else s.pointers.irt } := by
  simp only [gcmdHandler, pointers_setLevel]
  cases w.getLsbD 30 <;> cases w.getLsbD 24 <;> simp

/-! ### MMIO writes -/

/-- From `s` to `t` the pointers that a GCMD write of the value `v` asks for are copied from their live registers, and
the others stay (R405, R406). -/
structure PointersCaptured (v : Word64) (s t : State) : Prop where
  root : t.activeRtaddr = if v.getLsbD 30 then s.reg64 .rtaddr else s.activeRtaddr
  irt : t.activeIrta = if v.getLsbD 24 then s.reg64 .irta else s.activeIrta

theorem samePointers_onOverlap (x : Reg) (off n : Nat) (f : State → State) (s : State)
    (h : ∀ t, SamePointers t (f t)) : SamePointers s (onOverlap x off n f s) := .ite (h s) (.refl s)

theorem samePointers_ccmdHandler (new : Word64) (s : State) : SamePointers s (ccmdHandler new s) :=
  .ite (samePointers_setReg64 _ _ _) (.refl s)

theorem samePointers_iotlbHandler (new : Word64) (s : State) : SamePointers s (iotlbHandler new s) :=
  .ite (samePointers_setReg64 _ _ _) (.refl s)

theorem samePointers_iqtHandler (s : State) : SamePointers s (iqtHandler s) :=
  .ite (samePointers_withWake _ _) (.refl s)

theorem samePointers_icsHandler (old new : Bool) (s : State) : SamePointers s (icsHandler old new s) :=
  .ite (samePointers_setFlag _ _ _) (.refl s)

theorem samePointers_frcdHiHandler (old new : Bool) (s : State) : SamePointers s (frcdHiHandler old new s) :=
  .ite ((samePointers_setFlag _ _ _).trans (sameRest_dropFaultPending _).samePointers) (.refl s)

/-- Every handler but GCMD's keeps the pointers. -/
theorem samePointers_runHandlers (before after : RegFile) (off n : Nat) (v : Word64) (s : State)
    (h : overlaps .gcmd off n = false) : SamePointers s (runHandlers before after off n v s) := by
  have gcmd : onOverlap .gcmd off n (gcmdHandler (written32 off n v Reg.gcmd.off)) s = s := by simp [onOverlap, h]
  unfold runHandlers
  rw [gcmd]
  refine .trans ?_ (samePointers_onOverlap _ _ _ _ _ (samePointers_frcdHiHandler _ _))
  refine .trans ?_ (samePointers_onOverlap _ _ _ _ _ (samePointers_iotlbHandler _))
  refine .trans ?_ (samePointers_onOverlap _ _ _ _ _ fun t => (sameRest_deliverOnUnmask t _ _ _).samePointers)
  refine .trans ?_ (samePointers_onOverlap _ _ _ _ _ (samePointers_icsHandler _ _))
  refine .trans ?_ (samePointers_onOverlap _ _ _ _ _ samePointers_iqtHandler)
  refine .trans ?_ (samePointers_onOverlap _ _ _ _ _ fun t => (sameRest_deliverOnUnmask t _ _ _).samePointers)
  refine .trans ?_ (samePointers_onOverlap _ _ _ _ _ fun t => (sameRest_dropFaultPending t).samePointers)
  exact samePointers_onOverlap _ _ _ _ _ (samePointers_ccmdHandler _)

/-- A 64-bit register apart from the bytes of a masked write keeps its value. -/
theorem read64_of_maskedBit_ne {p : Params} {r after : RegFile} {off n : Nat} {v : Word64} {o : Nat}
    (h : BitsAre r after (maskedBit p r off n v)) (ho : off + n ≤ o) : after.read64 o = r.read64 o := by
  refine BitVec.eq_of_getLsbD_eq fun j hj => ?_
  rw [RegFile.read64_getLsbD _ _ _ hj, RegFile.read64_getLsbD _ _ _ hj, h.2,
    maskedBit_outside _ _ _ _ _ _ (.inr (by omega))]

/-- A rejected MMIO write changes nothing (R247). -/
theorem exec_write_rejected {s : State} {i : Instr} {off n : Nat} {v : Word64} (h : writeOf i = some (off, n, v))
    (ha : ¬ Accepts s.regs.win off n) : exec i s = .next s := by
  unfold writeOf at h
  split at h <;> cases h
  · exact congrArg _ (if_neg fun e => ha ((accepted_four _ _).mp e))
  · exact congrArg _ (if_neg fun e => ha ((accepted_eight _ _).mp e))

/-- An accepted write that overlaps GCMD begins there. -/
theorem off_eq_of_overlaps_gcmd {w : Windows} {off n : Nat} (hn : n = 4 ∨ n = 8) (ha : Accepts w off n)
    (h : overlaps .gcmd off n = true) : off = 0x018 := by
  simp only [overlaps, Bool.and_eq_true, decide_eq_true_eq] at h
  rw [Reg.off_gcmd, Reg.size_gcmd] at h
  obtain ⟨aligned, -⟩ := ha
  rcases hn with rfl | rfl <;> omega

/-- An accepted write at GCMD captures the pointers that it asks for. -/
theorem pointersCaptured_write {s t : State} {i : Instr} {n : Nat} {v : Word64}
    (hw : writeOf i = some (0x018, n, v)) (ha : Accepts s.regs.win 0x018 n) (h : exec i s = .next t) :
    PointersCaptured v s t := by
  have hn := writeOf_size hw
  obtain ⟨after, bits, he⟩ := exec_write hw ha
  rw [h, runHandlers_gcmd _ _ _ _ _ hn, written32_gcmd _ _ hn] at he
  cases he
  have hp := pointers_gcmdHandler (v.extractLsb' 0 32) (s.withRegs after)
  have rtaddr : after.read64 Reg.rtaddr.off = s.reg64 .rtaddr :=
    read64_of_maskedBit_ne bits (by rw [Reg.off_rtaddr]; omega)
  have irta : after.read64 Reg.irta.off = s.reg64 .irta := read64_of_maskedBit_ne bits (by rw [Reg.off_irta]; omega)
  have bit (k : Nat) (hk : k < 32) : (v.extractLsb' 0 32).getLsbD k = v.getLsbD k := by
    rw [BitVec.getLsbD_extractLsb', decide_eq_true hk, Bool.true_and, Nat.zero_add]
  rw [bit 30 (by decide), bit 24 (by decide)] at hp
  constructor
  · rw [← rtaddr]
    exact congrArg Pointers.root hp
  · rw [← irta]
    exact congrArg Pointers.irt hp

/-- What an MMIO write does to the pointers: it keeps them, or it is a GCMD write that captures them. -/
theorem pointers_exec_write {s t : State} {i : Instr} {off n : Nat} {v : Word64} (hw : writeOf i = some (off, n, v))
    (h : exec i s = .next t) : SamePointers s t ∨ (off = 0x018 ∧ PointersCaptured v s t) := by
  by_cases ha : Accepts s.regs.win off n
  · by_cases hg : overlaps .gcmd off n = true
    · obtain rfl := off_eq_of_overlaps_gcmd (writeOf_size hw) ha hg
      exact .inr ⟨rfl, pointersCaptured_write hw ha h⟩
    · obtain ⟨after, -, he⟩ := exec_write hw ha
      rw [h] at he
      cases he
      exact .inl ((sameRest_withRegs s after).samePointers.trans
        (samePointers_runHandlers _ _ _ _ _ _ (Bool.eq_false_iff.mpr hg)))
  · rw [exec_write_rejected hw ha] at h
    cases h
    exact .inl (.refl s)

/-! ### Requests -/

theorem samePointers_recordWalked (s : State) (req : Request) (w : Walked) : SamePointers s (recordWalked s req w) := by
  rcases recordWalked_cases s req w with ⟨_, -, h⟩ | ⟨_, -, h⟩ | ⟨_, _, _, _, -, h⟩ | ⟨_, _, _, _, -, h⟩ <;> rw [h]
  · exact samePointers_reply _ _
  · exact samePointers_reply _ _
  · exact (sameRest_recordAtFault _ _ _ _).samePointers.trans (samePointers_reply _ _)
  · exact (sameRest_recordIrFault _ _ _ _ _).samePointers.trans (samePointers_reply _ _)

theorem samePointers_exec_request {i : Instr} {r : Request} {s t : State} (hr : requestOf i = some r)
    (h : exec i s = .next t) : SamePointers s t := by
  rw [(exec_requestOf hr s).2] at h
  split at h <;> cases h
  exact (samePointers_withOracle _ _).trans (samePointers_recordWalked _ _ _)

theorem samePointers_beginRequest {s t : State} {i : Instr} (h : beginRequest s i = .next t) : SamePointers s t := by
  unfold beginRequest at h
  split at h
  · cases h
  · split at h <;> cases h
    exact samePointers_withInflight _ _

theorem samePointers_recordInFlight {s t : State} {k : Nat} (h : recordInFlight s k = .next t) : SamePointers s t := by
  obtain ⟨x, w, -, -, ⟨_, -, rfl⟩ | ⟨-, rfl⟩⟩ := recordInFlight_next h
  · exact samePointers_withInflight _ _
  · exact (samePointers_withInflight _ _).trans (samePointers_recordWalked _ _ _)

/-- What an operation called at a port does to the pointers. -/
theorem pointers_exec_call {p : Port} {i : Instr} {s t : State} (hs : sourceOf i = some (.call p))
    (h : exec i s = .next t) :
    SamePointers s t ∨ ∃ n v, p = .mmio ∧ writeOf i = some (0x018, n, v) ∧ PointersCaptured v s t := by
  have write {off n : Nat} {v : Word64} (hw : writeOf i = some (off, n, v)) (hp : p = .mmio) :
      SamePointers s t ∨ ∃ n v, p = .mmio ∧ writeOf i = some (0x018, n, v) ∧ PointersCaptured v s t := by
    rcases pointers_exec_write hw h with same | ⟨rfl, captured⟩
    · exact .inl same
    · exact .inr ⟨n, v, hp, hw, captured⟩
  cases i with
  | mmioR32 off => cases h; exact .inl (samePointers_reply _ _)
  | mmioR64 off => cases h; exact .inl (samePointers_reply _ _)
  | mmioW32 off v => cases hs; exact write rfl rfl
  | mmioW64 off v => cases hs; exact write rfl rfl
  | dmaTranslate | dmaBulk | irqRemapCompat | irqRemap => exact .inl (samePointers_exec_request rfl h)
  | _ => simp [sourceOf] at hs

/-! ### The worker -/

theorem samePointers_checkQueue (s : State) : SamePointers s (checkQueue s) := by
  rcases checkQueue_cases s with h | ⟨e, -, h⟩ | ⟨-, -, -, -, h⟩ <;> rw [h]
  · exact samePointers_withPhase _ _
  · exact samePointers_stopBatch _ _
  · exact samePointers_withPhase _ _

theorem samePointers_workerIdle (s : State) : SamePointers s (workerIdle s) :=
  .ite (samePointers_withPhase _ _) (.ite ((samePointers_withWake _ _).trans (samePointers_checkQueue _)) (.refl s))

theorem samePointers_workerNext (s : State) : SamePointers s (workerNext s) :=
  .ite (samePointers_withPhase _ _) (samePointers_checkQueue s)

theorem samePointers_workerAdvance (s : State) (q : QSnap) (bs : Option (List Byte)) :
    SamePointers s (workerAdvance s q bs) := by
  cases bs with
  | none => exact samePointers_stopBatch _ _
  | some b => exact (samePointers_setReg64 s .iqh _).trans (samePointers_withPhase _ _)

theorem samePointers_workerSignal (s : State) (q : QSnap) (ds : List Desc) (k : Nat) :
    SamePointers s (workerSignal s q ds k) := by
  have raise : SamePointers s (if s.flag .iwc then s else raiseEvent (s.setFlag .iwc true) .invCompletion) :=
    .ite (.refl s) ((samePointers_setFlag _ _ _).trans (sameRest_raiseEvent _ _).samePointers)
  exact raise.trans (samePointers_withPhase _ _)

theorem samePointers_waitStatusWrite (s : State) (d : Desc) : SamePointers s (waitStatusWrite s d).1 := by
  unfold waitStatusWrite
  split
  · rcases memWrite_cases s (waitStatusAddr d) (waitStatusBytes d) with ⟨-, h⟩ | ⟨-, h⟩ <;> rw [h] <;> exact ⟨rfl, rfl⟩
  · exact .refl s

theorem samePointers_acknowledge {u : AckType} {s t : State} (h : acknowledge u s = .next t) : SamePointers s t := by
  unfold acknowledge at h
  split at h <;> cases h
  exact ⟨rfl, rfl⟩

theorem samePointers_rejectType {s t : State} (h : rejectType s = .next t) : SamePointers s t := by
  unfold rejectType at h
  split at h <;> cases h
  exact samePointers_stopBatch _ _

theorem samePointers_execDscInvWait {d : Desc} {s t : State} (h : execDscInvWait d s = .next t) : SamePointers s t := by
  have write := samePointers_waitStatusWrite s d
  unfold execDscInvWait at h
  split at h
  · split at h
    · cases h; exact samePointers_stopBatch _ _
    · split at h
      · next s1 hw =>
        rw [hw] at write
        cases h; exact write.trans (samePointers_stopBatch _ _)
      · next s1 hw =>
        rw [hw] at write
        split at h <;> cases h <;> exact write.trans (samePointers_withPhase _ _)
  · cases h

theorem samePointers_dispatch {d : Desc} {s t : State} (h : exec (decodeDesc d) s = .next t) : SamePointers s t := by
  rcases exec_decodeDesc_cases d s with ⟨u, e⟩ | e | e <;> rw [e] at h
  · exact samePointers_acknowledge h
  · exact samePointers_execDscInvWait h
  · exact samePointers_rejectType h

theorem samePointers_workerStep {s t : State} (h : workerStep s = .next t) : SamePointers s t := by
  rcases workerStep_cases s with ⟨-, e⟩ | ⟨q, -, e⟩ | ⟨q, bs, -, e⟩ | ⟨q, ds, k, -, e⟩ | ⟨q, ds, k, d, -, -, e⟩ |
    ⟨q, ds, k, -, -, e⟩ | ⟨-, e⟩ <;> rw [e] at h
  · cases h; exact samePointers_workerIdle _
  · cases h; exact ⟨rfl, rfl⟩
  · cases h; exact samePointers_workerAdvance _ _ _
  · cases h; exact samePointers_workerSignal _ _ _ _
  · exact samePointers_dispatch h
  · cases h; exact samePointers_workerNext _
  · cases h; exact .refl s

/-! ### The step -/

theorem samePointers_oddAccess {s t : State} {isWrite : Bool} {n : Nat} (h : oddAccess isWrite n s = .next t) :
    SamePointers s t := by
  unfold oddAccess at h
  split at h
  · cases h
  · split at h <;> cases h <;> exact ⟨rfl, rfl⟩

/-- What an agent's step `e` from `s` to `t` does to the active pointers (R560). -/
inductive PointersAfter (e : Event) (s t : State) : Prop where
  | same (h : SamePointers s t)
  | reset (he : e = .reset) (root : t.activeRtaddr = 0) (irt : t.activeIrta = 0)
  | restore (img : RestoreImage) (he : e = .restore img) (root : t.activeRtaddr = img.rt) (irt : t.activeIrta = img.irta)
  | captured (bs : List Byte) (i : Instr) (n : Nat) (v : Word64) (he : e = .call .mmio bs)
      (hd : decode (.call .mmio) bs = .ok i) (hw : writeOf i = some (0x018, n, v)) (h : PointersCaptured v s t)

theorem pointersAfter_hostReset {s t : State} (h : hostReset s = .next t) : PointersAfter .reset s t := by
  unfold hostReset at h
  split at h <;> cases h
  exact .reset rfl rfl rfl

theorem pointersAfter_hostRestore {s t : State} {img : RestoreImage} (h : hostRestore s img = .next t) :
    PointersAfter (.restore img) s t := by
  unfold hostRestore at h
  split at h
  · cases h
  · split at h <;> cases h
    exact .restore img rfl rfl rfl

theorem pointersAfter_call {p : Port} {bs : List Byte} {s t : State} (h : onDecoded (.call p) bs s exec = .next t) :
    PointersAfter (.call p bs) s t := by
  obtain ⟨i, hd, hx⟩ := onDecoded_next h
  rcases pointers_exec_call (sourceOf_of_decode_call hd) hx with same | ⟨n, v, rfl, hw, captured⟩
  · exact .same same
  · exact .captured bs i n v rfl hd hw captured

theorem pointersAfter_runEvent {e : Event} {s t : State} (h : runEvent e s = .next t) : PointersAfter e s t := by
  cases e with
  | call p bs => exact pointersAfter_call h
  | oddAccess isWrite off n => exact .same (samePointers_oddAccess h)
  | begin p bs =>
    obtain ⟨i, -, hb⟩ := onDecoded_next (k := fun i t => beginRequest t i) h
    exact .same (samePointers_beginRequest hb)
  | snapshot k =>
    obtain ⟨x, -, rfl⟩ := snapshotInFlight_next h
    exact .same (samePointers_withInflight _ _)
  | walk k =>
    obtain ⟨x, -, -, rfl⟩ := walkInFlight_next h
    exact .same ((samePointers_withOracle _ _).trans (samePointers_withInflight _ _))
  | record k => exact .same (samePointers_recordInFlight h)
  | worker => exact .same (samePointers_workerStep h)
  | guestStore a bs => cases h; exact .same ⟨rfl, rfl⟩
  | reset => exact pointersAfter_hostReset h
  | restore img => exact pointersAfter_hostRestore h
  | shutdown => cases h; exact .same ⟨rfl, rfl⟩

/-- A step keeps both active pointers, or it is the next entry of the schedule and does to them what that entry can do. -/
theorem pointers_step {s t : State} (h : step s = .next t) :
    SamePointers s t ∨ ∃ e rest, s.agenda = e :: rest ∧ PointersAfter e (s.withAgenda rest) t := by
  rcases step_cases s with ⟨-, hs⟩ | ⟨e, rest, ha, hs⟩ <;> rw [hs] at h
  · exact .inl (samePointers_workerStep h)
  · exact .inr ⟨e, rest, ha, pointersAfter_runEvent h⟩

end Sys2Proof.Machine
end

section
/-! The statement of the state family: when the active pointers change. -/

open Sys2Proof Sys2Proof.Machine

namespace Sys2Proof.ActiveState

/-- Settles O59: of what a step can do to the pointers, a GCMD write copies each pointer only if its own bit is 1. -/
theorem activePointers : Obligations.ActivePointers := by
  intro s t h
  rcases pointers_step h with same | ⟨e, rest, ha, after⟩
  · exact ⟨.inl same.root, .inl same.irt⟩
  have head : s.agenda.head? = some e := by rw [ha, List.head?_cons]
  cases after with
  | same same => exact ⟨.inl same.root, .inl same.irt⟩
  | reset he root irt =>
    subst he
    exact ⟨.inr (.inl ⟨head, root⟩), .inr (.inl ⟨head, irt⟩)⟩
  | restore img he root irt =>
    subst he
    exact ⟨.inr (.inr (.inl ⟨img, head, root⟩)), .inr (.inr (.inl ⟨img, head, irt⟩))⟩
  | captured bs i n v he hd hw captured =>
    subst he
    obtain ⟨root, irt⟩ := captured
    constructor
    · split at root
      · next srtp => exact .inr (.inr (.inr ⟨bs, i, n, v, head, hd, hw, srtp, root⟩))
      · exact .inl root
    · split at irt
      · next sirtp => exact .inr (.inr (.inr ⟨bs, i, n, v, head, hd, hw, sirtp, irt⟩))
      · exact .inl irt

end Sys2Proof.ActiveState
end

section
/-! MMIO writes leave what a walk reads (R156): one relation `SameWalks s t`, which every handler is shown to keep. -/

namespace Sys2Proof.Machine

/-- From `s` to `t` everything that the walk of a request in flight reads stays: the requests with their snapshots, guest
memory, the memory system's answers and the parameters (R156, item 2). -/
structure SameWalks (s t : State) : Prop where
  params : t.params = s.params
  inflight : t.inflight = s.inflight
  mem : t.mem = s.mem
  oracle : t.oracle = s.oracle

theorem SameWalks.refl (s : State) : SameWalks s s := ⟨rfl, rfl, rfl, rfl⟩

theorem SameWalks.trans {s t u : State} (h : SameWalks s t) (h' : SameWalks t u) : SameWalks s u :=
  ⟨h'.params.trans h.params, h'.inflight.trans h.inflight, h'.mem.trans h.mem, h'.oracle.trans h.oracle⟩

theorem SameWalks.ite {s t u : State} {c : Prop} [Decidable c] (h : SameWalks s t) (h' : SameWalks s u) :
    SameWalks s (if c then t else u) := by
  split
  · exact h
  · exact h'

/-- The operations that only write registers and emit leave what a walk reads. -/
theorem SameRest.sameWalks {s t : State} (h : SameRest s t) : SameWalks s t := ⟨h.params, h.inflight, h.mem, h.oracle⟩

theorem sameWalks_setFlag (s : State) (f : Flag) (b : Bool) : SameWalks s (s.setFlag f b) :=
  (sameRest_setFlag s f b).sameWalks

theorem sameWalks_setReg64 (s : State) (x : Reg) (v : Word64) : SameWalks s (s.setReg64 x v) :=
  (sameRest_setReg64 s x v).sameWalks

theorem sameWalks_withWake (s : State) (x : Bool) : SameWalks s (s.withWake x) := ⟨rfl, rfl, rfl, rfl⟩

/-! ### The handlers -/

theorem sameWalks_setLevel (f : Flag) (on : Bool) (s : State) : SameWalks s (setLevel f on s) :=
  .ite (.refl s) (sameWalks_setFlag _ _ _)

theorem sameWalks_wakeIfPending (s : State) : SameWalks s (wakeIfPending s) := .ite (sameWalks_withWake _ _) (.refl s)

theorem sameWalks_setQie (on : Bool) (s : State) : SameWalks s (setQie on s) :=
  .ite (.refl s) (.ite ((sameWalks_setFlag _ _ _).trans (sameWalks_wakeIfPending _))
    ((sameWalks_setFlag _ _ _).trans (sameWalks_setReg64 _ _ _)))

/-- SRTP sets the active pointer, of which a request in flight has its own copy (R291, R405). -/
theorem sameWalks_captureRoot (s : State) : SameWalks s (captureRoot s) := ⟨rfl, rfl, rfl, rfl⟩

/-- SIRTP likewise (R361, R406). -/
theorem sameWalks_captureIrt (s : State) : SameWalks s (captureIrt s) := ⟨rfl, rfl, rfl, rfl⟩

theorem sameWalks_gcmdHandler (w : Word32) (s : State) : SameWalks s (gcmdHandler w s) := by
  refine .trans ?_ (sameWalks_setLevel _ _ _)
  refine .trans ?_ (.ite (sameWalks_captureIrt _) (.refl _))
  refine .trans ?_ (.ite (sameWalks_captureRoot _) (.refl _))
  exact ((sameWalks_setQie _ _).trans (sameWalks_setLevel _ _ _)).trans (sameWalks_setLevel _ _ _)

theorem sameWalks_ccmdHandler (new : Word64) (s : State) : SameWalks s (ccmdHandler new s) :=
  .ite (sameWalks_setReg64 _ _ _) (.refl s)

theorem sameWalks_iotlbHandler (new : Word64) (s : State) : SameWalks s (iotlbHandler new s) :=
  .ite (sameWalks_setReg64 _ _ _) (.refl s)

theorem sameWalks_iqtHandler (s : State) : SameWalks s (iqtHandler s) := .ite (sameWalks_withWake _ _) (.refl s)

theorem sameWalks_icsHandler (old new : Bool) (s : State) : SameWalks s (icsHandler old new s) :=
  .ite (sameWalks_setFlag _ _ _) (.refl s)

theorem sameWalks_frcdHiHandler (old new : Bool) (s : State) : SameWalks s (frcdHiHandler old new s) :=
  .ite ((sameWalks_setFlag _ _ _).trans (sameRest_dropFaultPending _).sameWalks) (.refl s)

theorem sameWalks_onOverlap (x : Reg) (off n : Nat) (f : State → State) (s : State) (h : ∀ t, SameWalks t (f t)) :
    SameWalks s (onOverlap x off n f s) := .ite (h s) (.refl s)

/-- The handlers of a write leave what a walk reads, in the order in which they run (R250). -/
theorem sameWalks_runHandlers (before after : RegFile) (off n : Nat) (v : Word64) (s : State) :
    SameWalks s (runHandlers before after off n v s) := by
  refine .trans ?_ (sameWalks_onOverlap _ _ _ _ _ (sameWalks_frcdHiHandler _ _))
  refine .trans ?_ (sameWalks_onOverlap _ _ _ _ _ (sameWalks_iotlbHandler _))
  refine .trans ?_ (sameWalks_onOverlap _ _ _ _ _ fun t => (sameRest_deliverOnUnmask t _ _ _).sameWalks)
  refine .trans ?_ (sameWalks_onOverlap _ _ _ _ _ (sameWalks_icsHandler _ _))
  refine .trans ?_ (sameWalks_onOverlap _ _ _ _ _ sameWalks_iqtHandler)
  refine .trans ?_ (sameWalks_onOverlap _ _ _ _ _ fun t => (sameRest_deliverOnUnmask t _ _ _).sameWalks)
  refine .trans ?_ (sameWalks_onOverlap _ _ _ _ _ fun t => (sameRest_dropFaultPending t).sameWalks)
  refine .trans ?_ (sameWalks_onOverlap _ _ _ _ _ (sameWalks_ccmdHandler _))
  exact sameWalks_onOverlap _ _ _ _ _ (sameWalks_gcmdHandler _)

/-- An MMIO write, accepted or not, leaves what a walk reads. -/
theorem sameWalks_exec_write {s t : State} {i : Instr} {w : Nat × Nat × Word64} (hw : writeOf i = some w)
    (h : exec i s = .next t) : SameWalks s t := by
  obtain ⟨off, n, v⟩ := w
  by_cases ha : Accepts s.regs.win off n
  · obtain ⟨after, -, he⟩ := exec_write hw ha
    rw [h] at he
    cases he
    exact (sameRest_withRegs s after).sameWalks.trans (sameWalks_runHandlers _ _ _ _ _ _)
  · rw [exec_write_rejected hw ha] at h
    cases h
    exact .refl s

end Sys2Proof.Machine
end

section
/-! Guest memory (R76, R153): each operation but a store of guest software and the status write of a wait descriptor is
shown to leave it, and those two are shown to store what their rules say. -/

namespace Sys2Proof.Machine

/-! ### Requests -/

theorem sameWalks_reply (s : State) (x : Reply) : SameWalks s (s.reply x) := ⟨rfl, rfl, rfl, rfl⟩

/-- The record step of a request leaves guest memory and the other requests in flight. -/
theorem sameWalks_recordWalked (s : State) (req : Request) (w : Walked) : SameWalks s (recordWalked s req w) := by
  rcases recordWalked_cases s req w with ⟨_, -, h⟩ | ⟨_, -, h⟩ | ⟨_, _, _, _, -, h⟩ | ⟨_, _, _, _, -, h⟩ <;> rw [h]
  · exact sameWalks_reply _ _
  · exact sameWalks_reply _ _
  · exact (sameRest_recordAtFault _ _ _ _).sameWalks.trans (sameWalks_reply _ _)
  · exact (sameRest_recordIrFault _ _ _ _ _).sameWalks.trans (sameWalks_reply _ _)

theorem mem_exec_request {i : Instr} {r : Request} {s t : State} (hr : requestOf i = some r) (h : exec i s = .next t) :
    t.mem = s.mem := by
  rw [(exec_requestOf hr s).2] at h
  split at h <;> cases h
  exact (sameWalks_recordWalked _ _ _).mem

/-- An operation called at a port leaves guest memory. -/
theorem mem_exec_call {p : Port} {i : Instr} {s t : State} (hs : sourceOf i = some (.call p)) (h : exec i s = .next t) :
    t.mem = s.mem := by
  cases i with
  | mmioR32 off => cases h; rfl
  | mmioR64 off => cases h; rfl
  | mmioW32 off v => exact (sameWalks_exec_write rfl h).mem
  | mmioW64 off v => exact (sameWalks_exec_write rfl h).mem
  | dmaTranslate | dmaBulk | irqRemapCompat | irqRemap => exact mem_exec_request rfl h
  | _ => simp [sourceOf] at hs

theorem mem_beginRequest {s t : State} {i : Instr} (h : beginRequest s i = .next t) : t.mem = s.mem := by
  unfold beginRequest at h
  split at h
  · cases h
  · split at h <;> cases h
    rfl

theorem mem_recordInFlight {s t : State} {k : Nat} (h : recordInFlight s k = .next t) : t.mem = s.mem := by
  obtain ⟨x, w, -, -, ⟨_, -, rfl⟩ | ⟨-, rfl⟩⟩ := recordInFlight_next h
  · rfl
  · exact (sameWalks_recordWalked _ _ _).mem

/-! ### The worker -/

theorem mem_stopBatch (s : State) (e : IqError) : (stopBatch s e).mem = s.mem := (sameRest_recordIqError s e).mem

theorem mem_checkQueue (s : State) : (checkQueue s).mem = s.mem := by
  rcases checkQueue_cases s with h | ⟨e, -, h⟩ | ⟨-, -, -, -, h⟩ <;> rw [h]
  · rfl
  · exact mem_stopBatch s e
  · rfl

theorem mem_workerIdle (s : State) : (workerIdle s).mem = s.mem := by
  unfold workerIdle
  split_ifs
  · rfl
  · exact mem_checkQueue _
  · rfl

theorem mem_workerNext (s : State) : (workerNext s).mem = s.mem := by
  unfold workerNext
  split
  · rfl
  · exact mem_checkQueue s

theorem mem_workerAdvance (s : State) (q : QSnap) (bs : Option (List Byte)) : (workerAdvance s q bs).mem = s.mem := by
  cases bs with
  | none => exact mem_stopBatch s _
  | some b => rfl

theorem mem_workerSignal (s : State) (q : QSnap) (ds : List Desc) (k : Nat) : (workerSignal s q ds k).mem = s.mem := by
  unfold workerSignal
  split
  · rfl
  · exact (sameRest_raiseEvent _ _).mem

theorem mem_acknowledge {u : AckType} {s t : State} (h : acknowledge u s = .next t) : t.mem = s.mem := by
  unfold acknowledge at h
  split at h <;> cases h
  rfl

theorem mem_rejectType {s t : State} (h : rejectType s = .next t) : t.mem = s.mem := by
  unfold rejectType at h
  split at h <;> cases h
  exact mem_stopBatch s _

/-! ### The wait descriptor -/

/-- From `m` to `m'` guest memory stays, or a wait descriptor `d` with SW stores its status data (R452). -/
inductive StatusStored (d : Desc) (m m' : Memory) : Prop where
  | none (mem : m' = m)
  | stored (row : d.qw0 &&& 0xE0F = 0x005) (sw : d.qw0.getLsbD 5 = true)
      (mem : m' = m.store (waitStatusAddr d) (waitStatusBytes d))

/-- What the status write of a wait descriptor can do to guest memory. -/
theorem mem_waitStatusWrite (s : State) (d : Desc) :
    (waitStatusWrite s d).1.mem = s.mem ∨
      (d.qw0.getLsbD 5 = true ∧ (waitStatusWrite s d).1.mem = s.mem.store (waitStatusAddr d) (waitStatusBytes d)) := by
  unfold waitStatusWrite
  split
  · next sw =>
    rcases memWrite_cases s (waitStatusAddr d) (waitStatusBytes d) with ⟨-, h⟩ | ⟨-, h⟩ <;> rw [h]
    · exact .inl rfl
    · exact .inr ⟨sw, rfl⟩
  · exact .inl rfl

/-- Of the stages of a wait descriptor only its status write can change guest memory. -/
theorem mem_execDscInvWait {d : Desc} {s t : State} (h : execDscInvWait d s = .next t) :
    t.mem = s.mem ∨ t.mem = (waitStatusWrite s d).1.mem := by
  unfold execDscInvWait at h
  split at h
  · split at h
    · cases h; exact .inl (mem_stopBatch _ _)
    · split at h
      · next s1 hw =>
        cases h
        exact .inr (by rw [mem_stopBatch, hw])
      · next s1 hw => split at h <;> cases h <;> exact .inr (by rw [State.withPhase_mem, hw])
  · cases h

/-- A bit of the 7-bit type is a bit of the first quadword (R211). -/
theorem descType_getLsbD (d : Desc) (j : Nat) (hj : j < 7) :
    (descType d).getLsbD j = d.qw0.getLsbD (if j < 4 then j else j + 5) := by
  unfold descType field
  rw [BitVec.getLsbD_append]
  split
  · next h => simp [h]
  · next h => simp [show j - 4 < 3 by omega, show 9 + (j - 4) = j + 5 by omega]

/-- A descriptor of type 0x05 fits the match and mask words of the wait row (R173, R211). -/
theorem waitRow_of_descType {d : Desc} (h : descType d = 0x05) : d.qw0 &&& 0xE0F = 0x005 := by
  have typeBit (j : Nat) (hj : j < 7) : d.qw0.getLsbD (if j < 4 then j else j + 5) = (0x05 : BitVec 7).getLsbD j := by
    rw [← descType_getLsbD d j hj, h]
  have mask : ∀ i : Fin 64, (0xE0F : Word64).getLsbD i.val =
        (decide (i.val < 4) || (decide (9 ≤ i.val) && decide (i.val < 12))) ∧
      (0x005 : Word64).getLsbD i.val = (decide (i.val < 4) && (0x05 : BitVec 7).getLsbD i.val) := by decide
  refine BitVec.eq_of_getLsbD_eq fun i hi => ?_
  obtain ⟨maskBit, rowBit⟩ := mask ⟨i, hi⟩
  rw [BitVec.getLsbD_and, maskBit, rowBit]
  by_cases low : i < 4
  · have := typeBit i (by omega)
    rw [if_pos low] at this
    simp [low, this]
  · by_cases high : 9 ≤ i ∧ i < 12
    · have := typeBit (i - 5) (by omega)
      rw [if_neg (by omega), show i - 5 + 5 = i by omega] at this
      obtain ⟨k, rfl, hk⟩ : ∃ k, i = k + 9 ∧ k < 3 := ⟨i - 9, by omega, by omega⟩
      rw [this]
      interval_cases k <;> rfl
    · simp [low]; omega

/-- A descriptor decodes to one of the acknowledged rows, to the wait descriptor if its type is 0x05, or to a reserved
row. -/
theorem decodeDesc_cases_of_type (d : Desc) {P : Instr → Prop} (ack : ∀ r ∈ ackRows d, P r.1)
    (wait : descType d = 0x05 → P (.dscInvWait d)) (rsvd : ∀ i ∈ rsvdRows d, P i) : P (decodeDesc d) := by
  simp only [ackRows, rsvdRows, List.mem_cons, List.not_mem_nil, or_false, forall_eq_or_imp, forall_eq] at ack rsvd
  obtain ⟨cc, iotlb, devTlb, iec, pIotlb, pc, pDevTlb⟩ := ack
  obtain ⟨r00, r09, r0A, r0C, t4, t5, t6⟩ := rsvd
  unfold decodeDesc
  repeat' apply iteInduction <;> intro
  all_goals solve_by_elim

/-- What the meaning of a descriptor is: the acknowledgement of its type, the wait descriptor's if its quadword fits the
wait row, or the rejection of its type (R446, R447, R450). -/
theorem exec_decodeDesc_cases_of_row (d : Desc) (s : State) :
    (∃ u, exec (decodeDesc d) s = acknowledge u s) ∨
      (d.qw0 &&& 0xE0F = 0x005 ∧ exec (decodeDesc d) s = execDscInvWait d s) ∨
      exec (decodeDesc d) s = rejectType s := by
  refine decodeDesc_cases_of_type d (P := fun i => (∃ u, exec i s = acknowledge u s) ∨
    (d.qw0 &&& 0xE0F = 0x005 ∧ exec i s = execDscInvWait d s) ∨ exec i s = rejectType s) ?_
    (fun h => .inr (.inl ⟨waitRow_of_descType h, rfl⟩)) ?_
  · simp only [ackRows, List.forall_mem_cons]
    refine ⟨?_, ?_, ?_, ?_, ?_, ?_, ?_, by simp⟩ <;> exact .inl ⟨_, rfl⟩
  · simp only [rsvdRows, List.forall_mem_cons]
    refine ⟨?_, ?_, ?_, ?_, ?_, ?_, ?_, by simp⟩ <;> exact .inr (.inr rfl)

/-- What dispatching a descriptor does to guest memory. -/
theorem statusStored_dispatch {d : Desc} {s t : State} (h : exec (decodeDesc d) s = .next t) :
    StatusStored d s.mem t.mem := by
  rcases exec_decodeDesc_cases_of_row d s with ⟨u, e⟩ | ⟨row, e⟩ | e <;> rw [e] at h
  · exact .none (mem_acknowledge h)
  · rcases mem_execDscInvWait h with same | write
    · exact .none same
    · rcases mem_waitStatusWrite s d with same | ⟨sw, stored⟩
      · exact .none (write.trans same)
      · exact .stored row sw (write.trans stored)
  · exact .none (mem_rejectType h)

/-- A worker's step leaves guest memory, or it dispatches a wait descriptor that stores its status. -/
theorem mem_workerStep {s t : State} (h : workerStep s = .next t) :
    t.mem = s.mem ∨ ∃ q ds k d, s.wphase = .dispatching q ds k .start ∧ ds[k]? = some d ∧ StatusStored d s.mem t.mem := by
  rcases workerStep_cases s with ⟨-, e⟩ | ⟨q, -, e⟩ | ⟨q, bs, -, e⟩ | ⟨q, ds, k, -, e⟩ | ⟨q, ds, k, d, hq, hd, e⟩ |
    ⟨q, ds, k, -, -, e⟩ | ⟨-, e⟩ <;> rw [e] at h
  · cases h; exact .inl (mem_workerIdle s)
  · cases h; exact .inl rfl
  · cases h; exact .inl (mem_workerAdvance s q bs)
  · cases h; exact .inl (mem_workerSignal s q ds k)
  · exact .inr ⟨q, ds, k, d, hq, hd, statusStored_dispatch h⟩
  · cases h; exact .inl (mem_workerNext s)
  · cases h; exact .inl rfl

/-! ### The step -/

theorem mem_oddAccess {s t : State} {isWrite : Bool} {n : Nat} (h : oddAccess isWrite n s = .next t) : t.mem = s.mem := by
  unfold oddAccess at h
  split at h
  · cases h
  · split at h <;> cases h <;> rfl

theorem mem_hostReset {s t : State} (h : hostReset s = .next t) : t.mem = s.mem := by
  unfold hostReset at h
  split at h <;> cases h
  simp [resetDevice]

theorem mem_hostRestore {s t : State} {img : RestoreImage} (h : hostRestore s img = .next t) : t.mem = s.mem := by
  unfold hostRestore at h
  split at h
  · cases h
  · split at h <;> cases h
    rfl

/-- What an agent's step `e` from `s` to `t` does to guest memory: nothing, or a store of guest software, or it is the
worker's step. -/
inductive MemAfter (e : Event) (s t : State) : Prop where
  | same (mem : t.mem = s.mem)
  | guestStore (a : Word64) (bs : List Byte) (he : e = .guestStore a bs) (mem : t.mem = s.mem.store a bs)
  | worker (he : e = .worker) (h : workerStep s = .next t)

theorem memAfter_runEvent {e : Event} {s t : State} (h : runEvent e s = .next t) : MemAfter e s t := by
  cases e with
  | call p bs =>
    obtain ⟨i, hd, hx⟩ := onDecoded_next h
    exact .same (mem_exec_call (sourceOf_of_decode_call hd) hx)
  | oddAccess isWrite off n => exact .same (mem_oddAccess h)
  | begin p bs =>
    obtain ⟨i, -, hb⟩ := onDecoded_next (k := fun i t => beginRequest t i) h
    exact .same (mem_beginRequest hb)
  | snapshot k =>
    obtain ⟨x, -, rfl⟩ := snapshotInFlight_next h
    exact .same rfl
  | walk k =>
    obtain ⟨x, -, -, rfl⟩ := walkInFlight_next h
    exact .same rfl
  | record k => exact .same (mem_recordInFlight h)
  | worker => exact .worker rfl h
  | guestStore a bs => cases h; exact .guestStore a bs rfl rfl
  | reset => exact .same (mem_hostReset h)
  | restore img => exact .same (mem_hostRestore h)
  | shutdown => cases h; exact .same rfl

/-- A step leaves guest memory, or it is a store of guest software, or it is the worker's turn and a descriptor that it
dispatches stores its status. -/
theorem mem_step {s t : State} (h : step s = .next t) :
    t.mem = s.mem ∨
    (∃ a bs, s.agenda.head? = some (.guestStore a bs) ∧ t.mem = s.mem.store a bs) ∨
    (WorkerTurn s ∧ ∃ q ds k d, s.wphase = .dispatching q ds k .start ∧ ds[k]? = some d ∧ StatusStored d s.mem t.mem) := by
  rcases step_cases s with ⟨ha, hs⟩ | ⟨e, rest, ha, hs⟩ <;> rw [hs] at h
  · rcases mem_workerStep h with same | dispatched
    · exact .inl same
    · exact .inr (.inr ⟨.inl (by rw [ha]; rfl), dispatched⟩)
  · have head : s.agenda.head? = some e := by rw [ha, List.head?_cons]
    cases memAfter_runEvent h with
    | same mem => exact .inl mem
    | guestStore a bs he mem => exact .inr (.inl ⟨a, bs, he ▸ head, mem⟩)
    | worker he h =>
      rcases mem_workerStep h with same | dispatched
      · exact .inl same
      · exact .inr (.inr ⟨.inr (he ▸ head), dispatched⟩)

/-- A byte that a store changes is one of those it goes to. -/
theorem Memory.exists_of_byteAt_store_ne {m : Memory} {a x : Word64} {bs : List Byte} (h : m.wf)
    (hne : (m.store a bs).byteAt x ≠ m.byteAt x) : ∃ k < bs.length, x = a + BitVec.ofNat 64 k := by
  by_contra hno
  exact hne (Memory.byteAt_store_ne m a x bs h fun k hk e => hno ⟨k, hk, e⟩)

/-- The status address has bits 1:0 clear, so its four bytes do not wrap around (R452). -/
theorem toNat_waitStatusAddr_add (d : Desc) {k : Nat} (hk : k < 4) :
    (waitStatusAddr d + BitVec.ofNat 64 k).toNat = (waitStatusAddr d).toNat + k := by
  have aligned : (waitStatusAddr d).toNat % 4 = 0 := by
    have h : waitStatusAddr d &&& 0x3#64 = 0 := by
      rw [waitStatusAddr, BitVec.and_assoc]
      exact BitVec.and_zero
    have h' := congrArg BitVec.toNat h
    rwa [BitVec.toNat_and, show (0x3#64).toNat = 2 ^ 2 - 1 from rfl, Nat.and_two_pow_sub_one_eq_mod] at h'
  have := (waitStatusAddr d).isLt
  rw [BitVec.toNat_add, BitVec.toNat_ofNat]
  omega

end Sys2Proof.Machine
end

section
/-! MMIO reads (R245 to R247), and the walk step of a request whose walk has not been taken (R156). -/

namespace Sys2Proof.Machine

theorem mmioRead32_accepted {r : RegFile} {off : Nat} (h : Accepts r.win off 4) : mmioRead32 r off = r.read32 off :=
  if_pos ((accepted_four _ _).mpr h)

theorem mmioRead32_rejected {r : RegFile} {off : Nat} (h : ¬ Accepts r.win off 4) : mmioRead32 r off = 0xFFFFFFFF :=
  if_neg fun e => h ((accepted_four _ _).mp e)

theorem mmioRead64_accepted {r : RegFile} {off : Nat} (h : Accepts r.win off 8) : mmioRead64 r off = r.read64 off :=
  if_pos ((accepted_eight _ _).mpr h)

theorem mmioRead64_rejected {r : RegFile} {off : Nat} (h : ¬ Accepts r.win off 8) :
    mmioRead64 r off = 0xFFFFFFFFFFFFFFFF :=
  if_neg fun e => h ((accepted_eight _ _).mp e)

/-- The walk step of a request whose walk has not been taken. -/
theorem walkInFlight_unwalked {s : State} {k : Nat} {r : Request} {sn : Snap} {outs : List Word64}
    (h : s.inflight[k]? = some ⟨r, sn, outs, none⟩) :
    walkInFlight s k =
      .next ((s.withOracle (walkPart s.params s.mem sn outs s.oracle r).2).withInflight
        (s.inflight.set k ⟨r, sn, outs, some (walkPart s.params s.mem sn outs s.oracle r).1⟩)) := by
  simp only [walkInFlight, h]

end Sys2Proof.Machine
end

section
/-! A request taken step by step (R156, R330): what is left to walk after each element of a bulk call, the state of a
request in flight with nothing else taken since its snapshot, and where its steps lead. -/

namespace Sys2Proof.Machine

/-! ### The elements of a walk -/

/-- A page that ends the loop of R320 with a fault ends it with that page's fault. -/
theorem morePages_error {p : Params} {m : Memory} {sn : Snap} {sid : BitVec 16} {flags : Perm} {atype : AddrType}
    {addr base : Word64} {len : Nat} {did : BitVec 16} {fuel done : Nat} {perm : Perm} {o o' : List MemAnswer} {w : Walked}
    (h : morePages p m sn sid flags atype addr base len did fuel done perm o = (.error w, o')) :
    ∃ a e, w = pageFault sid flags atype a e := by
  induction fuel generalizing done perm o with
  | zero => cases h
  | succ fuel ih =>
    unfold morePages at h
    split at h
    · cases h
    · extract_lets a at h
      split at h
      · cases h; exact ⟨_, _, rfl⟩
      · split at h
        · cases h
        · exact ih h

/-- A range that faults on any page ends with that page's fault. -/
theorem legacyRange_error {p : Params} {m : Memory} {sn : Snap} {sid : BitVec 16} {addr : Word64} {len : Nat}
    {flags : Perm} {atype : AddrType} {o o' : List MemAnswer} {w : Walked}
    (h : legacyRange p m sn sid addr len flags atype o = (.error w, o')) : ∃ a e, w = pageFault sid flags atype a e := by
  unfold legacyRange at h
  split at h
  · cases h; exact ⟨_, _, rfl⟩
  · split at h
    · cases h
    · exact morePages_error h

/-- A range whose walk gives no result is aborted or ends with a page's fault (R297, R320). -/
theorem walkRange_error {p : Params} {m : Memory} {sn : Snap} {sid : BitVec 16} {addr : Word64} {len : Nat} {flags : Perm}
    {atype : AddrType} {o o' : List MemAnswer} {w : Walked}
    (h : walkRange p m sn sid addr len flags atype o = (.error w, o')) :
    w = .abort [] ∨ ∃ a e, w = pageFault sid flags atype a e := by
  unfold walkRange at h
  split_ifs at h
  · cases h
  · exact .inr (legacyRange_error h)
  · cases h; exact .inr ⟨_, _, rfl⟩
  · cases h; exact .inr ⟨_, _, rfl⟩
  · cases h; exact .inl rfl
  · cases h; exact .inr ⟨_, _, rfl⟩

/-- A bulk call ends with the element whose walk gives no result (R330). -/
theorem unfinished_of_walkRange_error {p : Params} {m : Memory} {sn : Snap} {sid : BitVec 16} {addr : Word64} {len : Nat}
    {flags : Perm} {atype : AddrType} {o o' : List MemAnswer} {w : Walked}
    (h : walkRange p m sn sid addr len flags atype o = (.error w, o')) (req : Request) (outs : List Word64) :
    unfinished req (w.withEarlier outs) = none := by
  rcases walkRange_error h with rfl | ⟨a, e, rfl⟩ <;> cases req <;> rfl

theorem walkBulk_cons_error {p : Params} {m : Memory} {sn : Snap} {sid : BitVec 16} {flags : Perm} {a : Word64}
    {o o' : List MemAnswer} {w : Walked} (h : walkRange p m sn sid a 4096 flags .untranslated o = (.error w, o'))
    (rest outs : List Word64) :
    walkBulk p m sn sid flags (a :: rest) outs o = (w.withEarlier (earlierOutputs p outs), o') := by
  simp only [walkBulk, h]

theorem walkBulk_cons_ok {p : Params} {m : Memory} {sn : Snap} {sid : BitVec 16} {flags : Perm} {a : Word64}
    {o o' : List MemAnswer} {x : Range} (h : walkRange p m sn sid a 4096 flags .untranslated o = (.ok x, o'))
    (rest outs : List Word64) :
    walkBulk p m sn sid flags (a :: rest) outs o = walkBulk p m sn sid flags rest (outs ++ [x.base]) o' := by
  simp only [walkBulk, h]

/-- The walk of all that is left of a request: of a bulk call that has the outputs `outs`, all its further elements. -/
def walkRest (p : Params) (m : Memory) (sn : Snap) (outs : List Word64) (o : List MemAnswer) (r : Request) :
    Walked × List MemAnswer :=
  match r with
  | .bulk sid flags addrs => walkBulk p m sn sid flags (addrs.drop outs.length) outs o
  | r => walkRequest p m sn o r

/-- With no output yet, all of the request is left. -/
theorem walkRest_nil (p : Params) (m : Memory) (sn : Snap) (o : List MemAnswer) (r : Request) :
    walkRest p m sn [] o r = walkRequest p m sn o r := by cases r <;> rfl

/-- How many elements of a bulk call are left. -/
def elementsLeft (r : Request) (outs : List Word64) : Nat :=
  match r with
  | .bulk _ _ addrs => addrs.length - outs.length
  | _ => 0

/-- What one walk step `w` of a request that has the outputs `outs` is of the walk of all that is left of it: the whole of
it, or its first element. -/
inductive PartOfRest (p : Params) (m : Memory) (sn : Snap) (outs : List Word64) (o : List MemAnswer) (r : Request)
    (w : Walked × List MemAnswer) : Prop where
  | whole (ends : unfinished r w.1 = none) (walk : walkRest p m sn outs o r = w)
  | element (outs' : List Word64) (goesOn : unfinished r w.1 = some outs')
      (fewer : elementsLeft r outs' < elementsLeft r outs)
      (walk : walkRest p m sn outs o r = walkRest p m sn outs' w.2 r)

/-- The walk step of a bulk call is the walk of its next element, if one is left. -/
theorem partOfRest_bulk (p : Params) (m : Memory) (sn : Snap) (sid : BitVec 16) (flags : Perm) (addrs outs : List Word64)
    (o : List MemAnswer) :
    PartOfRest p m sn outs o (.bulk sid flags addrs) (walkPart p m sn outs o (.bulk sid flags addrs)) := by
  have part : walkPart p m sn outs o (.bulk sid flags addrs) =
      walkBulk p m sn sid flags ((addrs.drop outs.length).take 1) outs o := rfl
  have all : walkRest p m sn outs o (.bulk sid flags addrs) =
      walkBulk p m sn sid flags (addrs.drop outs.length) outs o := rfl
  cases left : addrs.drop outs.length with
  | nil =>
    rw [left] at part all
    have none_left : addrs.length ≤ outs.length := List.drop_eq_nil_iff.mp left
    refine .whole ?_ (all.trans part.symm)
    rw [part]
    exact if_neg (by omega)
  | cons a rest =>
    rw [left] at part all
    have some_left : outs.length < addrs.length := by
      by_contra h
      rw [List.drop_eq_nil_of_le (by omega)] at left
      cases left
    have next_left : addrs.drop (outs.length + 1) = rest := by rw [← List.tail_drop, left, List.tail_cons]
    cases hw : walkRange p m sn sid a 4096 flags .untranslated o with
    | mk res o' =>
      cases res with
      | error w =>
        rw [List.take_succ_cons, List.take_zero, walkBulk_cons_error hw] at part
        rw [walkBulk_cons_error hw] at all
        exact .whole (by rw [part]; exact unfinished_of_walkRange_error hw _ _) (all.trans part.symm)
      | ok x =>
        rw [List.take_succ_cons, List.take_zero, walkBulk_cons_ok hw] at part
        rw [walkBulk_cons_ok hw] at all
        have length : (outs ++ [x.base]).length = outs.length + 1 := by simp
        rw [part]
        by_cases more : (outs ++ [x.base]).length < addrs.length
        · refine .element (outs ++ [x.base]) (if_pos more) (by simp only [elementsLeft]; omega) ?_
          rw [all]
          simp only [walkRest, walkBulk, length, next_left]
        · refine .whole (if_neg more) ?_
          rw [all, ← next_left, List.drop_eq_nil_of_le (by omega)]

/-- What a walk step is of all that is left to walk, for every request. -/
theorem partOfRest_walkPart (p : Params) (m : Memory) (sn : Snap) (outs : List Word64) (o : List MemAnswer) (r : Request) :
    PartOfRest p m sn outs o r (walkPart p m sn outs o r) := by
  cases r with
  | bulk sid flags addrs => exact partOfRest_bulk p m sn sid flags addrs outs o
  | translate | remapCompat | remap => exact .whole rfl rfl

/-! ### A request in flight -/

/-- The state `s` with the request `r` in flight as the last one, under the snapshot that `s` gives: `outs` are the outputs
so far, `o` the memory answers left, and `w` the walk that has been taken, if it has. -/
def State.inProgress (s : State) (r : Request) (outs : List Word64) (o : List MemAnswer) (w : Option Walked) : State :=
  (s.withOracle o).withInflight (s.inflight ++ [⟨r, takeSnap s, outs, w⟩])

section
variable (s : State) (r : Request) (outs : List Word64) (o : List MemAnswer)

@[simp] theorem inProgress_getElem? (w : Option Walked) :
    (s.inProgress r outs o w).inflight[s.inflight.length]? = some ⟨r, takeSnap s, outs, w⟩ :=
  List.getElem?_concat_length

@[simp] theorem inProgress_length (w : Option Walked) :
    (s.inProgress r outs o w).inflight.length = s.inflight.length + 1 := List.length_append

/-- Replacing the request in flight. -/
theorem inProgress_set (w w' : Option Walked) (outs' : List Word64) :
    (s.inProgress r outs o w).inflight.set s.inflight.length ⟨r, takeSnap s, outs', w'⟩ =
      s.inflight ++ [⟨r, takeSnap s, outs', w'⟩] := by
  simp [State.inProgress]

/-- The snapshot step puts the request in flight. -/
theorem beginRequest_inProgress {i : Instr} (hr : requestOf i = some r) (hpre : r.pre = true) :
    beginRequest s i = .next (s.inProgress r [] s.oracle none) := by
  simp only [beginRequest, hr, hpre, if_true]
  rfl

/-- With nothing between, a new snapshot is the one the request has. -/
theorem snapshotInFlight_inProgress {u : State}
    (h : snapshotInFlight (s.inProgress r outs o none) s.inflight.length = .next u) : u = s.inProgress r outs o none := by
  obtain ⟨x, hx, rfl⟩ := snapshotInFlight_next h
  rw [inProgress_getElem?] at hx
  cases hx
  exact congrArg (s.withOracle o).withInflight (inProgress_set s r outs o none none outs)

theorem walkInFlight_inProgress :
    walkInFlight (s.inProgress r outs o none) s.inflight.length =
      .next (s.inProgress r outs (walkPart s.params s.mem (takeSnap s) outs o r).2
        (some (walkPart s.params s.mem (takeSnap s) outs o r).1)) := by
  rw [walkInFlight_unwalked (inProgress_getElem? s r outs o none), inProgress_set]
  rfl

/-- The record step of an element that is not the last one goes on to the next. -/
theorem recordInFlight_element {w : Walked} {outs' : List Word64} (h : unfinished r w = some outs') :
    recordInFlight (s.inProgress r outs o (some w)) s.inflight.length = .next (s.inProgress r outs' o none) := by
  simp only [recordInFlight, inProgress_getElem?, h, inProgress_set]
  rfl

/-- The record step at the end records the walk and takes the request out of flight. -/
theorem recordInFlight_end {w : Walked} (h : unfinished r w = none) :
    recordInFlight (s.inProgress r outs o (some w)) s.inflight.length = .next (recordWalked (s.withOracle o) r w) := by
  have erase : (s.inProgress r outs o (some w)).inflight.eraseIdx s.inflight.length = s.inflight := by
    simp [State.inProgress, List.eraseIdx_append_of_length_le]
  simp only [recordInFlight, inProgress_getElem?, h, erase]
  rfl

end

section
variable {s u t : State} {r : Request}

/-- The whole walk recorded is the request run to its end. -/
theorem recordWalked_eq_runRequest {w : Walked × List MemAnswer}
    (h : w = walkRequest s.params s.mem (takeSnap s) s.oracle r) :
    recordWalked (s.withOracle w.2) r w.1 = runRequest s r := by
  subst h
  rfl

/-- The steps of a request with no other step between lead to where the request run to its end leads. -/
theorem Undisturbed.eq_runRequest {outs : List Word64} {o : List MemAnswer} (h : Undisturbed s.inflight.length u t)
    (hu : u = s.inProgress r outs o none)
    (left : walkRest s.params s.mem (takeSnap s) outs o r = walkRequest s.params s.mem (takeSnap s) s.oracle r) :
    t = runRequest s r := by
  induction h generalizing outs o with
  | snapshot _ _ _ taken _ ih =>
    subst hu
    exact ih (snapshotInFlight_inProgress s r outs o taken) left
  | element _ _ _ _ walk record goesOn _ ih =>
    subst hu
    rw [walkInFlight_inProgress] at walk
    cases walk
    cases partOfRest_walkPart s.params s.mem (takeSnap s) outs o r with
    | whole ends =>
      rw [recordInFlight_end _ _ _ _ ends] at record
      cases record
      rw [inProgress_length, (sameWalks_recordWalked _ _ _).inflight, State.withOracle_inflight] at goesOn
      omega
    | element outs' more _ next =>
      rw [recordInFlight_element _ _ _ _ more] at record
      cases record
      exact ih rfl (next.symm.trans left)
  | last _ _ _ walk record ends =>
    subst hu
    rw [walkInFlight_inProgress] at walk
    cases walk
    cases partOfRest_walkPart s.params s.mem (takeSnap s) outs o r with
    | whole isEnd all =>
      rw [recordInFlight_end _ _ _ _ isEnd] at record
      cases record
      exact recordWalked_eq_runRequest (all.symm.trans left)
    | element outs' more =>
      rw [recordInFlight_element _ _ _ _ more] at record
      cases record
      rw [inProgress_length, inProgress_length] at ends
      omega

end

/-- The steps of a request come to an end, because each element leaves fewer. -/
theorem exists_undisturbed (s : State) (r : Request) (outs : List Word64) (o : List MemAnswer) :
    ∃ t, Undisturbed s.inflight.length (s.inProgress r outs o none) t := by
  induction hn : elementsLeft r outs using Nat.strong_induction_on generalizing outs o with
  | _ n ih =>
    have walk := walkInFlight_inProgress s r outs o
    cases partOfRest_walkPart s.params s.mem (takeSnap s) outs o r with
    | whole ends =>
      refine ⟨_, .last _ _ _ walk (recordInFlight_end _ _ _ _ ends) ?_⟩
      rw [inProgress_length, (sameWalks_recordWalked _ _ _).inflight, State.withOracle_inflight]
      omega
    | element outs' more fewer =>
      obtain ⟨t, steps⟩ := ih _ (hn ▸ fewer) outs' _ rfl
      refine ⟨t, .element _ _ _ _ walk (recordInFlight_element _ _ _ _ more) ?_ steps⟩
      rw [inProgress_length, inProgress_length]

/-- A well-formed operation meets the precondition of its request. -/
theorem pre_of_wellFormed {i : Instr} {r : Request} (h : requestOf i = some r) (hw : i.wellFormed = true) : r.pre = true := by
  cases i with
  | dmaTranslate | dmaBulk => cases h; exact hw
  | irqRemapCompat | irqRemap => cases h; rfl
  | _ => cases h

/-! ### The snapshot step of a later element -/

theorem snapshotInFlight_between {s : State} {k : Nat} {x : InFlight} (hx : s.inflight[k]? = some x)
    (h : BetweenElements x) :
    snapshotInFlight s k = .next (s.withInflight (s.inflight.set k { x with snap := takeSnap s })) := by
  obtain ⟨r, sn, outs, w⟩ := x
  obtain ⟨⟨sid, flags, addrs, hr⟩, some_done, unwalked⟩ := h
  cases outs with
  | nil => exact absurd rfl some_done
  | cons a outs =>
    cases hr
    cases unwalked
    simp only [snapshotInFlight, hx]

theorem snapshotInFlight_refused {s : State} {k : Nat} {x : InFlight} (hx : s.inflight[k]? = some x)
    (h : ¬ BetweenElements x) : snapshotInFlight s k = .refused .notEnabled := by
  unfold snapshotInFlight
  split
  · next between =>
    rw [hx] at between
    cases between
    exact absurd ⟨⟨_, _, _, rfl⟩, List.cons_ne_nil _ _, rfl⟩ h
  · rfl

end Sys2Proof.Machine
end

section
/-! The statements of the memory family: guest memory, MMIO reads and rejected accesses, requests in steps. -/

open Sys2Proof Sys2Proof.Machine

namespace Sys2Proof.MemoryAccess

/-- Settles O60: of what a step can do to guest memory, each store changes only the bytes it goes to. -/
theorem guestMemory : Obligations.GuestMemory := by
  intro s t a wf h changed
  rcases mem_step h with same | ⟨a0, bs, head, mem⟩ | ⟨turn, q, ds, k, d, hq, hd, stored⟩
  · rw [same] at changed
    exact absurd rfl changed
  · rw [mem] at changed
    exact .inl ⟨a0, bs, head, Memory.exists_of_byteAt_store_ne wf changed⟩
  · cases stored with
    | none mem =>
      rw [mem] at changed
      exact absurd rfl changed
    | stored row sw mem =>
      rw [mem] at changed
      obtain ⟨j, hj, rfl⟩ := Memory.exists_of_byteAt_store_ne wf changed
      have hj : j < 4 := hj
      have place := toNat_waitStatusAddr_add d hj
      unfold waitStatusAddr at place
      exact .inr ⟨turn, q, ds, k, d, hq, hd, row, sw, by rw [waitStatusAddr]; omega, by rw [waitStatusAddr]; omega⟩

/-- Settles O9: the reply of an accepted read is the bits of the register space at its offset. -/
theorem mmioReads : Obligations.MmioReads := by
  intro s off
  refine ⟨⟨_, rfl, fun ha j hj => ?_, fun ha => ?_⟩, ⟨_, rfl, fun ha j hj => ?_, fun ha => ?_⟩⟩
  · rw [mmioRead32_accepted ha, RegFile.read32_getLsbD _ _ _ hj]
  · exact mmioRead32_rejected ha
  · rw [mmioRead64_accepted ha, RegFile.read64_getLsbD _ _ _ hj]
  · exact mmioRead64_rejected ha

/-- Settles O32: what is left to walk after each step is, with what has been walked, the whole walk under the one snapshot. -/
theorem splitIsAtomic : Obligations.SplitIsAtomic := by
  refine ⟨fun s i r hr hw => ?_, fun s k x hx => ⟨snapshotInFlight_between hx, snapshotInFlight_refused hx⟩⟩
  have pre := pre_of_wellFormed hr hw
  refine ⟨_, beginRequest_inProgress s r hr pre, exists_undisturbed s r [] s.oracle, fun t steps => ?_⟩
  rw [(exec_requestOf hr s).2, if_pos pre, steps.eq_runRequest rfl (walkRest_nil _ _ _ _ _)]

/-- Settles O33: an MMIO write leaves what a walk reads, and a walk reads nothing else of the state. -/
theorem snapshotIsolation : Obligations.SnapshotIsolation := by
  intro s s2 k r sn outs j w hk hw h
  have same := sameWalks_exec_write hw h
  refine ⟨same.inflight, _, _, walkInFlight_unwalked hk, walkInFlight_unwalked (same.inflight ▸ hk), ?_, ?_⟩
  · simp only [State.withInflight_inflight, same.params, same.inflight, same.mem, same.oracle]
  · simp only [State.withInflight_oracle, State.withOracle_oracle, same.params, same.mem, same.oracle]

/-- Settles O10: a rejected access is no write of R242 and reads all-ones, and a size other than 4 and 8 has no form. -/
theorem rejectedAccess : Obligations.RejectedAccess := by
  intro s off
  refine ⟨fun ha => ⟨fun v => exec_write_rejected rfl ha, ?_⟩, fun ha => ⟨fun v => exec_write_rejected rfl ha, ?_⟩,
    fun n h4 h8 => ?_⟩
  · rw [← mmioRead32_rejected ha]; rfl
  · rw [← mmioRead64_rejected ha]; rfl
  · have size : ¬ (n == 4 || n == 8) = true := by simp [h4, h8]
    exact ⟨if_neg size, if_neg size⟩

end Sys2Proof.MemoryAccess
end

section
/-! The descriptor rows (R173, R211): a row is chosen by the 7-bit type, each descriptor fits the row it decodes to, and no
descriptor fits two rows. -/

namespace Sys2Proof.Machine

/-- A descriptor's first quadword cut down to the bits of its 7-bit type (R211). -/
def typeWord (t : BitVec 7) : Word64 := (t.extractLsb' 4 3 ++ (0#5 ++ t.extractLsb' 0 4)).setWidth 64

theorem typeWord_getLsbD (t : BitVec 7) (i : Nat) (hi : i < 64) :
    (typeWord t).getLsbD i = if i < 4 then t.getLsbD i else decide (9 ≤ i) && t.getLsbD (i - 5) := by
  simp only [typeWord, BitVec.getLsbD_setWidth, BitVec.getLsbD_append, BitVec.getLsbD_extractLsb', hi, decide_true,
    Bool.true_and, BitVec.getLsbD_zero, Nat.zero_add]
  by_cases low : i < 4
  · simp [low, show i < 9 by omega]
  · by_cases mid : i < 9
    · simp [low, mid]
    · by_cases high : i < 12
      · simp [low, mid, show i - 9 < 3 by omega, show 4 + (i - 9) = i - 5 by omega, show 9 ≤ i by omega]
      · simp [low, mid, show ¬ i - 9 < 3 by omega, BitVec.getLsbD_of_ge t (i - 5) (by omega)]

/-- The type of a descriptor is all that the masks of the descriptor rows can see (R173, R211). -/
theorem qw0_and_typeMask (d : Desc) : d.qw0 &&& 0xE0F = typeWord (descType d) := by
  have mask : ∀ i : Fin 64, (0xE0F : Word64).getLsbD i.val =
      (decide (i.val < 4) || (decide (9 ≤ i.val) && decide (i.val < 12))) := by decide
  refine BitVec.eq_of_getLsbD_eq fun i hi => ?_
  rw [BitVec.getLsbD_and, mask ⟨i, hi⟩, typeWord_getLsbD _ _ hi]
  by_cases low : i < 4
  · simp [low, descType_getLsbD d i (by omega)]
  · by_cases high : 9 ≤ i ∧ i < 12
    · rw [descType_getLsbD d (i - 5) (by omega), if_neg low, if_neg (by omega), show i - 5 + 5 = i by omega]
      simp [high]
    · by_cases h9 : 9 ≤ i
      · simp [low, show ¬ i < 12 by omega, BitVec.getLsbD_of_ge (descType d) (i - 5) (by omega)]
      · simp [low, h9]

@[simp] theorem descType_typeWord (t : BitVec 7) (v : Word64) : descType ⟨typeWord t, v⟩ = t := by
  refine BitVec.eq_of_getLsbD_eq fun i hi => ?_
  rw [descType_getLsbD _ _ hi, typeWord_getLsbD _ _ (by split <;> omega)]
  split
  · simp [*]
  · simp [show ¬ i + 5 < 4 by omega, show 9 ≤ i + 5 by omega]

/-- Descriptors of one type decode to one row. -/
theorem tableRow_decodeDesc_congr {d d' : Desc} (h : descType d = descType d') :
    tableRow (decodeDesc d) = tableRow (decodeDesc d') := by
  simp only [decodeDesc, h, apply_ite tableRow]
  rfl

/-- The type bits alone fit the row that a type decodes to, and its mask has no other bit than the type's. -/
theorem typeWord_fits_decodeDesc : ∀ t : BitVec 7,
    (typeWord t).toNat &&& (tableRow (decodeDesc ⟨typeWord t, 0⟩)).2 = (tableRow (decodeDesc ⟨typeWord t, 0⟩)).1 ∧
    0xE0F &&& (tableRow (decodeDesc ⟨typeWord t, 0⟩)).2 = (tableRow (decodeDesc ⟨typeWord t, 0⟩)).2 := by
  decide

/-- Every descriptor fits the row it decodes to (R173, R211). -/
theorem decodeDesc_fits (d : Desc) : d.qw0.toNat &&& (tableRow (decodeDesc d)).2 = (tableRow (decodeDesc d)).1 := by
  have row : tableRow (decodeDesc d) = tableRow (decodeDesc ⟨typeWord (descType d), 0⟩) :=
    tableRow_decodeDesc_congr (descType_typeWord _ _).symm
  obtain ⟨fits, mask⟩ := typeWord_fits_decodeDesc (descType d)
  rw [← row, ← qw0_and_typeMask, BitVec.toNat_and] at fits
  rw [← row] at mask
  rwa [Nat.and_assoc, show (0xE0F : Word64).toNat = 0xE0F from rfl, mask] at fits

/-- Two rows that ask one bit of both masks for two values (R173). -/
def RowsConflict (r r' : Nat × Nat) : Prop := r.1 &&& r'.2 ≠ r'.1 &&& r.2

/-- No word fits two rows that conflict. -/
theorem RowsConflict.not_both_fit {r r' : Nat × Nat} (h : RowsConflict r r') {w : Nat} (fits : w &&& r.2 = r.1) :
    w &&& r'.2 ≠ r'.1 := by
  intro fits'
  refine h ?_
  rw [← fits, ← fits', Nat.and_assoc, Nat.and_assoc, Nat.and_comm r.2]

/-- Each two descriptor rows conflict (R173). -/
theorem dscRows_conflict (d : Desc) {i j : Instr} (hi : i ∈ dscRows d) (hj : j ∈ dscRows d) (hne : i ≠ j) :
    RowsConflict (tableRow i) (tableRow j) := by
  have pairs : ((dscRows d).map tableRow).Pairwise RowsConflict := by
    rw [show (dscRows d).map tableRow = (dscRows ⟨0, 0⟩).map tableRow from rfl]
    unfold RowsConflict
    decide
  have symm : Std.Symm fun i j => RowsConflict (tableRow i) (tableRow j) := ⟨fun _ _ h => Ne.symm h⟩
  exact (List.pairwise_map.mp pairs).forall hi hj hne

theorem decodeDesc_mem_dscRows (d : Desc) : decodeDesc d ∈ dscRows d :=
  decodeDesc_cases d (P := (· ∈ dscRows d))
    (fun _ hr => List.mem_append_left _ (List.mem_append_left _ (List.mem_map_of_mem hr)))
    (List.mem_append_left _ (List.mem_append_right _ (List.mem_singleton_self _)))
    (fun _ hi => List.mem_append_right _ hi)

/-- A descriptor decodes to a row exactly if it fits the row (R173, R211). -/
theorem decodeDesc_eq_iff {d : Desc} {i : Instr} (hi : i ∈ dscRows d) :
    decodeDesc d = i ↔ d.qw0.toNat &&& (tableRow i).2 = (tableRow i).1 := by
  refine ⟨fun h => h ▸ decodeDesc_fits d, fun fits => by_contra fun hne => ?_⟩
  exact (dscRows_conflict d (decodeDesc_mem_dscRows d) hi hne).not_both_fit (decodeDesc_fits d) fits

end Sys2Proof.Machine
end

section
/-! Packets: the bytes of a value read back and of bytes read as a value, and the parts of a call's packet (assumption 8). -/

namespace Sys2Proof

open Sys2Proof.Machine

/-! ### Bytes of values -/

theorem bytes16_le16 (b0 b1 : Byte) : bytes16 (le16 b0 b1) = [b0, b1] := by
  have low : byteOf (le16 b0 b1) 0 = b0 := by
    refine BitVec.eq_of_getLsbD_eq fun i hi => ?_
    rw [byteOf_getLsbD, le16, BitVec.getLsbD_append, if_pos (by omega)]
    simp [hi]
  have high : byteOf (le16 b0 b1) 1 = b1 := by
    refine BitVec.eq_of_getLsbD_eq fun i hi => ?_
    rw [byteOf_getLsbD, le16, BitVec.getLsbD_append, if_neg (by omega)]
    simp [hi]
  rw [bytes16, low, high]

theorem bytes32_le32 (b0 b1 b2 b3 : Byte) : bytes32 (le32 b0 b1 b2 b3) = [b0, b1, b2, b3] := by
  simp only [bytes32, byteOf_le32_0, byteOf_le32_1, byteOf_le32_2, byteOf_le32_3]

/-- The bytes of a 64-bit value are those of its low half and then those of its high half (R140). -/
theorem bytes64_append (hi lo : Word32) : bytes64 (hi ++ lo) = bytes32 lo ++ bytes32 hi := by
  have low (k : Nat) (hk : k < 4) : byteOf (hi ++ lo : Word64) k = byteOf lo k := by
    rw [← byteOf_low_half _ _ hk, low_half_append]
  have high (k : Nat) (hk : k < 4) : byteOf (hi ++ lo : Word64) (4 + k) = byteOf hi k := by
    rw [← byteOf_high_half _ _ hk, high_half_append]
  rw [bytes64, low 0 (by omega), low 1 (by omega), low 2 (by omega), low 3 (by omega)]
  rw [high 0 (by omega), high 1 (by omega), high 2 (by omega), high 3 (by omega)]
  rfl

theorem bytes64_le64 (b0 b1 b2 b3 b4 b5 b6 b7 : Byte) :
    bytes64 (le64 b0 b1 b2 b3 b4 b5 b6 b7) = [b0, b1, b2, b3, b4, b5, b6, b7] := by
  rw [le64, bytes64_append, bytes32_le32, bytes32_le32]
  rfl

/-! ### The access word -/

/-- The access word bit by bit (R173). -/
theorem accessWord_getLsbD (isWrite size8 : Bool) (off : BitVec 12) (i : Nat) :
    (accessWord isWrite size8 off).getLsbD i =
      if i < 12 then off.getLsbD i else if i = 12 then size8 else decide (i = 13) && isWrite := by
  have bit (b : Bool) (k : Nat) (hk : k < 16) : (boolBits 16 b <<< k).getLsbD i = (decide (i = k) && b) := by
    cases b with
    | false => rw [show boolBits 16 false = 0#16 from rfl, BitVec.zero_shiftLeft, BitVec.getLsbD_zero, Bool.and_false]
    | true =>
      rw [show boolBits 16 true = 1#16 from rfl, BitVec.getLsbD_shiftLeft, BitVec.getLsbD_one, Bool.eq_iff_iff]
      simp only [Bool.and_eq_true, Bool.not_eq_true', decide_eq_true_eq, decide_eq_false_iff_not, and_true]
      omega
  simp only [accessWord, BitVec.getLsbD_or, bit _ 12 (by omega), bit _ 13 (by omega), BitVec.getLsbD_setWidth]
  by_cases low : i < 12
  · simp [low, show i < 16 by omega, show i ≠ 12 by omega, show i ≠ 13 by omega]
  · rw [BitVec.getLsbD_of_ge off i (by omega), if_neg low]
    by_cases h : i = 12 <;> simp [h]

@[simp] theorem accessWord_top (isWrite size8 : Bool) (off : BitVec 12) : field (accessWord isWrite size8 off) 14 2 = 0 := by
  refine BitVec.eq_of_getLsbD_eq fun i hi => ?_
  rw [field, BitVec.getLsbD_extractLsb', accessWord_getLsbD, if_neg (by omega), if_neg (by omega)]
  simp [show 14 + i ≠ 13 by omega]

@[simp] theorem accessWord_off (isWrite size8 : Bool) (off : BitVec 12) : field (accessWord isWrite size8 off) 0 12 = off := by
  refine BitVec.eq_of_getLsbD_eq fun i hi => ?_
  rw [field, BitVec.getLsbD_extractLsb', accessWord_getLsbD, if_pos (by omega)]
  simp [hi]

@[simp] theorem accessWord_isWrite (isWrite size8 : Bool) (off : BitVec 12) :
    (accessWord isWrite size8 off).getLsbD 13 = isWrite := by
  rw [accessWord_getLsbD, if_neg (by omega), if_neg (by omega), decide_eq_true rfl, Bool.true_and]

@[simp] theorem accessWord_size8 (isWrite size8 : Bool) (off : BitVec 12) :
    (accessWord isWrite size8 off).getLsbD 12 = size8 := by
  rw [accessWord_getLsbD, if_neg (by omega), if_pos rfl]

/-- A 16-bit word with bits 15:14 zero is the access word of its parts (R173). -/
theorem accessWord_fields {w : BitVec 16} (top : field w 14 2 = 0) :
    accessWord (w.getLsbD 13) (w.getLsbD 12) (field w 0 12) = w := by
  refine BitVec.eq_of_getLsbD_eq fun i hi => ?_
  rw [accessWord_getLsbD]
  split
  · next low => simp [field, low]
  split
  · next h => rw [h]
  · by_cases h13 : i = 13
    · simp [h13]
    · have := congrArg (·.getLsbD (i - 14)) top
      simp only [field, BitVec.getLsbD_extractLsb', show 14 + (i - 14) = i by omega, show i - 14 < 2 by omega,
        decide_true, Bool.true_and] at this
      simp [h13, this]

/-! ### The codes of the DMA calls -/

@[simp] theorem decodeFlags_encodeFlags (f : Perm) : decodeFlags (encodeFlags f) = .ok f := by
  obtain ⟨read, write⟩ := f
  cases read <;> cases write <;> rfl

theorem encodeFlags_of_decodeFlags {b : Byte} {f : Perm} (h : decodeFlags b = .ok f) : encodeFlags f = b := by
  unfold decodeFlags at h
  split_ifs at h <;> cases h <;> subst b <;> rfl

@[simp] theorem decodeAddrType_encodeAddrType (t : AddrType) : decodeAddrType (encodeAddrType t) = .ok t := by
  cases t <;> rfl

theorem encodeAddrType_of_decodeAddrType {b : Byte} {t : AddrType} (h : decodeAddrType b = .ok t) :
    encodeAddrType t = b := by
  unfold decodeAddrType at h
  split_ifs at h <;> cases h <;> subst b <;> rfl

@[simp] theorem decodeAddrs_flatMap_bytes64 (addrs : List Word64) : decodeAddrs (addrs.flatMap bytes64) = some addrs := by
  induction addrs with
  | nil => rfl
  | cons a addrs ih =>
    rw [List.flatMap_cons, bytes64]
    simp only [List.cons_append, List.nil_append, decodeAddrs, ih, le64_bytes, Option.map_some]

theorem flatMap_bytes64_of_decodeAddrs {bs : List Byte} {addrs : List Word64} (h : decodeAddrs bs = some addrs) :
    addrs.flatMap bytes64 = bs := by
  induction bs using decodeAddrs.induct generalizing addrs with
  | case1 => cases h; rfl
  | case2 b0 b1 b2 b3 b4 b5 b6 b7 rest ih =>
    obtain ⟨tail, htail, rfl⟩ := Option.map_eq_some_iff.mp h
    rw [List.flatMap_cons, bytes64_le64, ih htail]
    rfl
  | case3 => simp_all [decodeAddrs]

end Sys2Proof
end

section
/-! Decoding what is encoded and encoding what is decoded, one form of packet after another. -/

namespace Sys2Proof

open Sys2Proof.Machine

/-! ### MMIO operations -/

theorem decodeMmio_encode {i : Instr} (h : sourceOf i = some (.call .mmio)) : decodeMmio (encode i) = .ok i := by
  cases i with
  | mmioR32 off | mmioR64 off | mmioW32 off v | mmioW64 off v =>
    simp only [encode, bytes16, bytes32, bytes64, List.cons_append, List.nil_append, decodeMmio, le16_bytes, le32_bytes,
      le64_bytes, accessWord_top, accessWord_off, accessWord_isWrite, accessWord_size8, ne_eq, not_true, if_false]
  | _ => cases h

theorem encode_of_decodeMmio {bs : List Byte} {i : Instr} (h : decodeMmio bs = .ok i) :
    sourceOf i = some (.call .mmio) ∧ encode i = bs := by
  unfold decodeMmio at h
  split at h
  · next b0 b1 data =>
    split_ifs at h with top
    have word := accessWord_fields (not_not.mp top)
    split at h <;> cases h
    all_goals
      next write size =>
      rw [write, size] at word
      simp only [sourceOf, encode, word, bytes16_le16, bytes32_le32, bytes64_le64, List.cons_append, List.nil_append,
        and_self]
  · cases h

/-! ### Calls of the DMA and interrupt ports -/

theorem decodeTranslate_encode {i : Instr} (h : sourceOf i = some (.call .translate)) :
    decodeTranslate (encode i) = .ok i := by
  cases i with
  | dmaTranslate sid addr len flags atype => simp [encode, bytes16, bytes64, decodeTranslate]
  | _ => cases h

theorem encode_of_decodeTranslate {bs : List Byte} {i : Instr} (h : decodeTranslate bs = .ok i) :
    sourceOf i = some (.call .translate) ∧ encode i = bs := by
  unfold decodeTranslate at h
  split at h
  · split at h <;> cases h
    next flags atype hf ht =>
    simp [sourceOf, encode, encodeFlags_of_decodeFlags hf, encodeAddrType_of_decodeAddrType ht, bytes16_le16,
      bytes64_le64]
  · cases h

theorem decodeBulk_encode {i : Instr} (h : sourceOf i = some (.call .bulk)) : decodeBulk (encode i) = .ok i := by
  cases i with
  | dmaBulk sid flags addrs => simp [encode, bytes16, decodeBulk]
  | _ => cases h

theorem encode_of_decodeBulk {bs : List Byte} {i : Instr} (h : decodeBulk bs = .ok i) :
    sourceOf i = some (.call .bulk) ∧ encode i = bs := by
  unfold decodeBulk at h
  split at h
  · split at h <;> cases h
    next flags addrs hf ha =>
    simp [sourceOf, encode, encodeFlags_of_decodeFlags hf, flatMap_bytes64_of_decodeAddrs ha, bytes16_le16]
  · cases h

theorem decodeIrq_encode {i : Instr} (h : sourceOf i = some (.call .irq)) (wf : i.wellFormed = true) :
    decodeIrq (encode i) = .ok i := by
  cases i with
  | irqRemap sid msiAddr msiData | irqRemapCompat sid msiAddr msiData =>
    simp_all [Instr.wellFormed, encode, bytes64, bytes32, bytes16, decodeIrq]
  | _ => cases h

theorem encode_of_decodeIrq {bs : List Byte} {i : Instr} (h : decodeIrq bs = .ok i) :
    sourceOf i = some (.call .irq) ∧ encode i = bs := by
  unfold decodeIrq at h
  split at h
  · split_ifs at h <;> cases h <;> simp [sourceOf, encode, bytes16_le16, bytes32_le32, bytes64_le64]
  · cases h

/-! ### Descriptors -/

/-- The operations that come from the ring are the descriptor rows (R210). -/
theorem sourceOf_ring_iff {i : Instr} : sourceOf i = some .ring ↔ ∃ d, i ∈ dscRows d := by
  constructor
  · cases i with
    | dscCcInv d | dscIotlbInv d | dscDevTlbInv d | dscIecInv d | dscPIotlbInv d | dscPcInv d | dscPDevTlbInv d
    | dscInvWait d | dscRsvd00 d | dscRsvd09Odd d | dscRsvd0A0E d | dscRsvd0C d | dscRsvdT4 d | dscRsvdT5 d
    | dscRsvdT6 d => exact fun _ => ⟨d, by simp [dscRows, ackRows, rsvdRows]⟩
    | _ => intro h; cases h
  · rintro ⟨d, h⟩
    revert i
    simp [dscRows, ackRows, rsvdRows, sourceOf]

theorem encode_of_mem_dscRows {d : Desc} {i : Instr} (h : i ∈ dscRows d) : encode i = encodeDesc d := by
  revert i
  simp [dscRows, ackRows, rsvdRows, encode]

theorem decodeRing_encodeDesc (d : Desc) : decodeRing (encodeDesc d) = .ok (decodeDesc d) := by
  simp [encodeDesc, bytes64, decodeRing]

theorem matchesRow_iff (d : Desc) (mask word : Word64) :
    matchesRow d mask word = true ↔ d.qw0.toNat &&& mask.toNat = word.toNat := by
  rw [matchesRow, beq_iff_eq, ← BitVec.toNat_inj, BitVec.toNat_and]

/-- A descriptor row is well formed exactly if its descriptor fits it (R173, R211). -/
theorem wellFormed_dscRow_iff {d : Desc} {i : Instr} (h : i ∈ dscRows d) :
    i.wellFormed = true ↔ d.qw0.toNat &&& (tableRow i).2 = (tableRow i).1 := by
  revert i
  simp only [dscRows, ackRows, rsvdRows, List.map_cons, List.map_nil, List.cons_append, List.nil_append,
    List.forall_mem_cons]
  refine ⟨?_, ?_, ?_, ?_, ?_, ?_, ?_, ?_, ?_, ?_, ?_, ?_, ?_, ?_, ?_, by simp⟩ <;> exact matchesRow_iff d _ _

theorem decodeRing_encode {i : Instr} (h : sourceOf i = some .ring) (wf : i.wellFormed = true) :
    decodeRing (encode i) = .ok i := by
  obtain ⟨d, row⟩ := sourceOf_ring_iff.mp h
  rw [encode_of_mem_dscRows row, decodeRing_encodeDesc, (decodeDesc_eq_iff row).mpr ((wellFormed_dscRow_iff row).mp wf)]

theorem encode_of_decodeRing {bs : List Byte} {i : Instr} (h : decodeRing bs = .ok i) :
    sourceOf i = some .ring ∧ encode i = bs := by
  unfold decodeRing at h
  split at h
  · cases h
    refine ⟨sourceOf_ring_iff.mpr ⟨_, decodeDesc_mem_dscRows _⟩, ?_⟩
    rw [encode_of_mem_dscRows (decodeDesc_mem_dscRows _), encodeDesc, bytes64_le64, bytes64_le64]
    rfl
  · cases h

end Sys2Proof
end

section
/-! Command rows: which bit of a GCMD word asks for which row (R172, R173), and the GCMD write as its rows one after another
(R401, R402). -/

namespace Sys2Proof.Machine

/-! ### The bits of a GCMD word -/

theorem and_two_pow_eq_iff (w : Word32) (k : Nat) (b : Bool) :
    w.toNat &&& 2 ^ k = (if b then 2 ^ k else 0) ↔ w.getLsbD k = b := by
  rw [Nat.and_two_pow, BitVec.testBit_toNat]
  have pos : 2 ^ k ≠ 0 := by positivity
  cases w.getLsbD k <;> cases b <;> simp [pos.symm]

/-- A command row stands for one value of one bit of the GCMD word: its table row says so, and so does the decoder. -/
structure AsksForBit (i : Instr) (k : Nat) (b : Bool) : Prop where
  row : tableRow i = (if b then 2 ^ k else 0, 2 ^ k)
  asked : ∀ w, i ∈ decodeGcmd w ↔ w.getLsbD k = b

/-- Every command row stands for one value of one bit (R172, R173). -/
theorem exists_asksForBit : ∀ i ∈ gcmdRows, ∃ k b, AsksForBit i k b := by
  simp only [gcmdRows, List.forall_mem_cons]
  refine ⟨⟨31, true, ?_⟩, ⟨31, false, ?_⟩, ⟨26, true, ?_⟩, ⟨26, false, ?_⟩, ⟨25, true, ?_⟩, ⟨25, false, ?_⟩,
    ⟨23, true, ?_⟩, ⟨23, false, ?_⟩, ⟨30, true, ?_⟩, ⟨24, true, ?_⟩, ⟨29, true, ?_⟩, ⟨28, true, ?_⟩, ⟨27, true, ?_⟩,
    by simp⟩ <;> exact ⟨rfl, fun w => by simp [decodeGcmd, eq_ite_iff]⟩

/-! ### The rows run one after another -/

/-- One more operation after an outcome. -/
def thenExec (o : Out) (i : Instr) : Out :=
  match o with
  | .next t => exec i t
  | .fault f => .fault f
  | .refused r => .refused r

theorem thenExec_next (s : State) (i : Instr) : thenExec (.next s) i = exec i s := rfl

theorem exec_gcmdQie (b : Bool) (s : State) : exec (if b then .gcmdQieSet else .gcmdQieClr) s = .next (setQie b s) := by
  cases b <;> rfl

theorem exec_gcmdIre (b : Bool) (s : State) :
    exec (if b then .gcmdIreSet else .gcmdIreClr) s = .next (setLevel .ires b s) := by
  cases b <;> rfl

theorem exec_gcmdCfi (b : Bool) (s : State) :
    exec (if b then .gcmdCfiSet else .gcmdCfiClr) s = .next (setLevel .cfis b s) := by
  cases b <;> rfl

theorem exec_gcmdTe (b : Bool) (s : State) :
    exec (if b then .gcmdTeSet else .gcmdTeClr) s = .next (setLevel .tes b s) := by
  cases b <;> rfl

theorem exec_gcmdSrtp (s : State) : exec .gcmdSrtp s = .next (captureRoot s) := rfl
theorem exec_gcmdSirtp (s : State) : exec .gcmdSirtp s = .next (captureIrt s) := rfl

/-! The three ignored commands, in the shape that a one-shot row has (R401). -/

theorem exec_gcmdSfl (s : State) : exec .gcmdSfl s = .next (id s) := rfl
theorem exec_gcmdEafl (s : State) : exec .gcmdEafl s = .next (id s) := rfl
theorem exec_gcmdWbf (s : State) : exec .gcmdWbf s = .next (id s) := rfl

/-- A one-shot row runs if its bit asks for it. -/
theorem foldl_thenExec_ite {i : Instr} {f : State → State} (h : ∀ s, exec i s = .next (f s)) (b : Bool) (s : State) :
    (if b then [i] else []).foldl thenExec (.next s) = .next (if b then f s else s) := by
  cases b
  · rfl
  · exact h s

/-- The rows of a GCMD word, run in their order, are the GCMD handler (R401). -/
theorem foldl_decodeGcmd (w : Word32) (s : State) : (decodeGcmd w).foldl thenExec (.next s) = .next (gcmdHandler w s) := by
  simp only [decodeGcmd, List.foldl_append, List.foldl_cons, List.foldl_nil, thenExec_next, exec_gcmdQie, exec_gcmdIre,
    exec_gcmdCfi, exec_gcmdTe, foldl_thenExec_ite exec_gcmdSrtp, foldl_thenExec_ite exec_gcmdSirtp,
    foldl_thenExec_ite exec_gcmdSfl, foldl_thenExec_ite exec_gcmdEafl, foldl_thenExec_ite exec_gcmdWbf, id, ite_self,
    gcmdHandler]

/-! ### The GCMD write -/

/-- The masked commit of a write at GCMD changes no register: GCMD has no writable bit (R32). -/
theorem maskedBit_gcmd (p : Params) (r : RegFile) (v : Word64) (k : Nat) : maskedBit p r 0x018 4 v k = r.spaceBit k := by
  by_cases inside : 8 * 0x018 ≤ k ∧ k < 8 * (0x018 + 4)
  · have apart : ∀ x ∈ maskedRegs, 0x018 + 4 ≤ x.off ∨ x.off + x.size ≤ 0x018 := by decide
    obtain ⟨rwZero, rw1cZero⟩ := maskBytes_of_uncovered (o := k / 8) (fun x hx => by have := apart x hx; omega) p
    exact maskedBit_readOnly _ _ _ _ _ _ rwZero rw1cZero
  · exact maskedBit_outside _ _ _ _ _ _ (by omega)

theorem accepts_gcmd (w : Windows) : Accepts w 0x018 4 := by
  have := w.holdMap
  exact ⟨rfl, .inl (by omega)⟩

/-- A GCMD write is the GCMD handler on the written word (R401). -/
theorem exec_gcmdWrite (s : State) (w : Word32) : exec (.mmioW32 0x018 w) s = .next (gcmdHandler w s) := by
  have write : writeOf (.mmioW32 0x018 w) = some (0x018, 4, w.setWidth 64) := rfl
  obtain ⟨after, bits, run⟩ := exec_write write (accepts_gcmd s.regs.win)
  have same : after = s.regs := RegFile.ext_spaceBit bits.1 fun k => (bits.2 k).trans (maskedBit_gcmd _ _ _ k)
  have word : (w.setWidth 64).extractLsb' 0 32 = w := by
    rw [← BitVec.setWidth_eq_extractLsb' (by decide), BitVec.setWidth_setWidth_of_le _ (by decide), BitVec.setWidth_eq]
  rw [run, same, runHandlers_gcmd _ _ _ _ _ (.inl rfl), written32_gcmd _ _ (.inl rfl), word]
  rfl

end Sys2Proof.Machine
end

section
/-! Events and queue errors (R492, R495): what raising an event does to the registers and the outputs. -/

namespace Sys2Proof.Machine

/-- Raising an event assigns its pending bit the value of its mask bit, and no other register (R492). -/
theorem regs_raiseEvent (s : State) (k : EventKind) : (raiseEvent s k).regs = s.regs.setFlag k.ip (s.flag k.im) := by
  rcases raiseEvent_cases s k with ⟨masked, h⟩ | ⟨unmasked, h⟩ <;> rw [h]
  · rw [masked, State.setFlag_regs]
  · rw [unmasked, State.setFlag_regs, State.emit_regs]

theorem flag_raiseEvent_ne (s : State) {k : EventKind} {f : Flag} (h : f ≠ k.ip) :
    (raiseEvent s k).flag f = s.flag f := by
  rw [State.flag, regs_raiseEvent, RegFile.flag_setFlag, if_neg h, State.flag]

theorem reg64_raiseEvent_ne (s : State) {k : EventKind} {x : Reg} (h : k.ip.off + 4 ≤ x.off ∨ x.off + 8 ≤ k.ip.off) :
    (raiseEvent s k).reg64 x = s.reg64 x := by
  rw [State.reg64, regs_raiseEvent, RegFile.read64_setFlag_ne _ _ _ _ h, State.reg64]

theorem onlyBits_raiseEvent (s : State) (k : EventKind) : OnlyBits s.regs (raiseEvent s k).regs [k.ip.span] := by
  rw [regs_raiseEvent]
  exact onlyBits_setFlag _ _ _

theorem eventRaised_raiseEvent (s : State) (k : EventKind) : EventRaised k s (raiseEvent s k) := by
  rcases raiseEvent_cases s k with ⟨masked, h⟩ | ⟨unmasked, h⟩ <;> rw [h, EventRaised]
  · rw [if_pos masked]
    exact ⟨by rw [State.flag_setFlag, if_pos rfl], rfl⟩
  · rw [if_neg (by rw [unmasked]; decide)]
    exact ⟨_, _, eventMsi_bits s k, by rw [State.flag_setFlag, if_pos rfl], rfl⟩

/-- Two states hold the same values where the raising of an event looks: its registers, its mask, `ECAP` and the outputs. -/
structure SameEvent (k : EventKind) (s u : State) : Prop where
  im : u.flag k.im = s.flag k.im
  addr : u.reg32 k.addr = s.reg32 k.addr
  uaddr : u.reg32 k.uaddr = s.reg32 k.uaddr
  data : u.reg32 k.data = s.reg32 k.data
  ecap : u.reg64 .ecap = s.reg64 .ecap
  outputs : u.outputs = s.outputs

/-- An event raised over one state is raised over another with the same event registers. -/
theorem EventRaised.of_sameEvent {k : EventKind} {s u t : State} (h : EventRaised k u t) (same : SameEvent k s u) :
    EventRaised k s t := by
  unfold EventRaised at h ⊢
  rw [same.im, same.outputs] at h
  split
  · next masked => rwa [if_pos masked] at h
  · next unmasked =>
    rw [if_neg unmasked] at h
    obtain ⟨a, d, msi, ip, outputs⟩ := h
    exact ⟨a, d, msi.of_eq same.addr.symm same.uaddr.symm same.data.symm same.ecap.symm, ip, outputs⟩

/-! ### Queue errors -/

/-- What R495 writes before it raises the fault event. -/
def noteQueueError (s : State) (e : IqError) : State :=
  ((s.withDiag (.iq e)).setFlag .iqe true).setReg64 .iqercd ((iqei e).setWidth 64)

theorem recordIqError_eq (s : State) (e : IqError) : recordIqError s e = raiseEvent (noteQueueError s e) .fault := rfl

theorem flag_noteQueueError (s : State) (e : IqError) (f : Flag) :
    (noteQueueError s e).flag f = if f = .iqe then true else s.flag f := by
  have apart : f.off + 4 ≤ Reg.iqercd.off ∨ Reg.iqercd.off + 8 ≤ f.off := by cases f <;> decide
  rw [noteQueueError, State.flag_setReg64_ne _ _ _ _ apart, State.flag_setFlag, State.flag_withDiag]

theorem iqercd_noteQueueError (s : State) (e : IqError) : (noteQueueError s e).reg64 .iqercd = (iqei e).setWidth 64 :=
  State.reg64_setReg64 _ _ _ rfl

/-- The IQEI field holds the code of R199. -/
theorem toNat_iqei (e : IqError) : ((iqei e).setWidth 64).toNat = e.code := by cases e <;> rfl

theorem onlyBits_noteQueueError (s : State) (e : IqError) :
    OnlyBits s.regs (noteQueueError s e).regs [Flag.iqe.span, Reg.iqercd.span] := by
  have flagSet : OnlyBits s.regs (s.regs.setFlag .iqe true) [Flag.iqe.span] := onlyBits_setFlag _ _ _
  have codeSet : OnlyBits (s.regs.setFlag .iqe true) (noteQueueError s e).regs [Reg.iqercd.span] :=
    onlyBits_writeReg64 _ _ _ rfl
  exact (flagSet.mono (by simp)).trans (codeSet.mono (by simp))

/-- R495 writes nothing that the fault event's message or mask is read from. -/
theorem sameEvent_noteQueueError (s : State) (e : IqError) : SameEvent .fault s (noteQueueError s e) where
  im := flag_noteQueueError s e .feIm
  addr := (State.reg32_setReg64_ne _ _ _ _ (by decide)).trans (State.reg32_setFlag_ne _ _ _ _ (by decide))
  uaddr := (State.reg32_setReg64_ne _ _ _ _ (by decide)).trans (State.reg32_setFlag_ne _ _ _ _ (by decide))
  data := (State.reg32_setReg64_ne _ _ _ _ (by decide)).trans (State.reg32_setFlag_ne _ _ _ _ (by decide))
  ecap := (State.reg64_setReg64_ne _ _ _ _ (by decide)).trans (State.reg64_setFlag_ne _ _ _ _ (by decide))
  outputs := rfl

/-- Taking a queue error (R495). -/
theorem queueErrorTaken_recordIqError (s : State) (e : IqError) : QueueErrorTaken e s (recordIqError s e) := by
  have diag : (recordIqError s e).diag = .iq e := diag_raiseEvent _ _
  refine ⟨diag ▸ (sameRest_recordIqError s e).eq, ?_⟩
  rw [recordIqError_eq]
  refine ⟨?_, ?_, (eventRaised_raiseEvent _ _).of_sameEvent (sameEvent_noteQueueError s e), ?_⟩
  · rw [flag_raiseEvent_ne _ (by decide), flag_noteQueueError, if_pos rfl]
  · rw [reg64_raiseEvent_ne _ (by decide), iqercd_noteQueueError, toNat_iqei]
  · have noted := onlyBits_noteQueueError s e
    have raised := onlyBits_raiseEvent (noteQueueError s e) .fault
    exact (noted.mono (by simp)).trans (raised.mono (by simp [EventKind.ip]))

end Sys2Proof.Machine
end

section
/-! The statements of the encoding family. -/

open Sys2Proof Sys2Proof.Machine

namespace Sys2Proof.Encoding

/-- Settles O1, one form of packet after another. -/
theorem decodeEncode : Obligations.DecodeEncode := by
  intro i src wf h
  match src with
  | .call .mmio => exact decodeMmio_encode h
  | .call .translate => exact decodeTranslate_encode h
  | .call .bulk => exact decodeBulk_encode h
  | .call .irq => exact decodeIrq_encode h wf
  | .ring => exact decodeRing_encode h wf

/-- Settles O2, one form of packet after another. -/
theorem encodeDecode : Obligations.EncodeDecode := by
  intro src bs i h
  match src with
  | .call .mmio => exact encode_of_decodeMmio h
  | .call .translate => exact encode_of_decodeTranslate h
  | .call .bulk => exact encode_of_decodeBulk h
  | .call .irq => exact encode_of_decodeIrq h
  | .ring => exact encode_of_decodeRing h

/-- Settles O3: a descriptor fits the row it decodes to and no other. -/
theorem descriptorRows : Obligations.DescriptorRows :=
  fun d => ⟨decodeDesc_mem_dscRows d, fun _ hi => (decodeDesc_eq_iff hi).symm⟩

/-- Settles O4: both sides say that the row's bit has the row's value. -/
theorem gcmdBits : Obligations.GcmdBits := by
  intro w i hi
  obtain ⟨k, b, asks⟩ := exists_asksForBit i hi
  rw [asks.asked, asks.row, and_two_pow_eq_iff]

/-- Settles O8: the write and its rows in order are both the GCMD handler. -/
theorem gcmdWriteRunsRows : Obligations.GcmdWriteRunsRows :=
  fun s w => (exec_gcmdWrite s w).trans (foldl_decodeGcmd w s).symm

/-- Settles O43: the registers are written and then the fault event is raised. -/
theorem recordQueueError : Obligations.RecordQueueError := queueErrorTaken_recordIqError

/-- Settles O5, by running the decoder. -/
theorem specWords : Obligations.SpecWords := by
  unfold Obligations.SpecWords
  decide

/-- Settles O42, by running the tables. -/
theorem faultTable : Obligations.FaultTable := fun _ => ⟨rfl, rfl⟩

end Sys2Proof.Encoding
end

section
/-! MMIO writes to registers with a handler, bit by bit (R242, R250 to R266): the mask bits of a register, what an operation
on registers does to a known register space, and the frame of the handlers that change nothing but registers. -/

namespace Sys2Proof.Machine

/-! ### The masked bits of a register -/

/-- The mask bits at bit `j` of a masked register are those of its own masks (R31). -/
theorem maskBits_of_mem {x : Reg} (hx : x ∈ maskedRegs) (p : Params) {j : Nat} (hj : j < 8 * x.size) :
    (rwByte p ((8 * x.off + j) / 8)).getLsbD ((8 * x.off + j) % 8) = (x.rwMask p).getLsbD j ∧
      (rw1cByte ((8 * x.off + j) / 8)).getLsbD ((8 * x.off + j) % 8) = x.rw1cMask.getLsbD j := by
  obtain ⟨rwHere, rw1cHere⟩ := maskBytes_of_mem hx p (j / 8) (by omega)
  have bitPlace : decide (j % 8 < 8) = true := decide_eq_true (by omega)
  rw [show (8 * x.off + j) / 8 = x.off + j / 8 by omega, show (8 * x.off + j) % 8 = j % 8 by omega, rwHere, rw1cHere,
    byteOf_getLsbD, byteOf_getLsbD, bitPlace, Bool.true_and, Bool.true_and, Nat.div_add_mod]
  exact ⟨rfl, rfl⟩

section
variable {x : Reg} (hx : x ∈ maskedRegs) (p : Params) (r : RegFile) (off n : Nat) (v : Word64) {j : Nat}
  (hj : j < 8 * x.size) (rwZero : (x.rwMask p).getLsbD j = false)
include hx hj rwZero

/-- A bit of a masked register that both its masks leave out keeps its value in a masked write. -/
theorem maskedBit_of_masks_zero (rw1cZero : x.rw1cMask.getLsbD j = false) :
    maskedBit p r off n v (8 * x.off + j) = r.spaceBit (8 * x.off + j) := by
  obtain ⟨rwHere, rw1cHere⟩ := maskBits_of_mem hx p hj
  unfold maskedBit
  rw [rwHere, rw1cHere, rwZero, rw1cZero]
  simp

/-- A bit of a masked register that is not RW is never set by a masked write (R242). -/
theorem spaceBit_of_maskedBit (h : maskedBit p r off n v (8 * x.off + j) = true) :
    r.spaceBit (8 * x.off + j) = true := by
  unfold maskedBit at h
  rw [(maskBits_of_mem hx p hj).1, rwZero] at h
  split at h
  · simp only [Bool.not_false, Bool.and_true, Bool.and_false, Bool.or_false, Bool.and_eq_true] at h
    exact h.1
  · exact h

end

/-- `FSTS.PPF` is read-only to a guest (R50). -/
theorem maskedBit_ppf (p : Params) (r : RegFile) (off n : Nat) (v : Word64) :
    maskedBit p r off n v Flag.ppf.pos = r.flag .ppf := by
  rw [RegFile.flag_eq_spaceBit]
  exact maskedBit_of_masks_zero (x := .fsts) (by decide) p r off n v (j := 1) (by decide) (by simp [Reg.rwMask]) rfl

/-- The pending bit of an event is read-only to a guest (R51, R59). -/
theorem maskedBit_ip (k : EventKind) (p : Params) (r : RegFile) (off n : Nat) (v : Word64) :
    maskedBit p r off n v k.ip.pos = r.flag k.ip := by
  rw [RegFile.flag_eq_spaceBit]
  cases k with
  | fault =>
    exact maskedBit_of_masks_zero (x := .fectl) (by decide) p r off n v (j := 30) (by decide) (by simp [Reg.rwMask]) rfl
  | invCompletion =>
    exact maskedBit_of_masks_zero (x := .iectl) (by decide) p r off n v (j := 30) (by decide) (by simp [Reg.rwMask]) rfl

/-- A guest can clear `FRCD_HI.F` and never set it (R68). -/
theorem flag_frcdF_of_maskedBit {p : Params} {r : RegFile} {off n : Nat} {v : Word64}
    (h : maskedBit p r off n v Flag.frcdF.pos = true) : r.flag .frcdF = true := by
  rw [RegFile.flag_eq_spaceBit]
  exact spaceBit_of_maskedBit (x := .frcdHi) (by decide) p r off n v (j := 63) (by decide) (by simp [Reg.rwMask]) h

/-! ### Operations on a known register space -/

theorem BitsAre.flag {r r' : RegFile} {g : Nat → Bool} (h : BitsAre r r' g) (f : Flag) : r'.flag f = g f.pos := by
  rw [RegFile.flag_eq_spaceBit, h.2]

/-- A flag whose word the access leaves out keeps its value in a masked write. -/
theorem BitsAre.flag_outside {p : Params} {r after : RegFile} {off n : Nat} {v : Word64}
    (h : BitsAre r after (maskedBit p r off n v)) (f : Flag) (apart : f.off + 4 ≤ off ∨ off + n ≤ f.off) :
    after.flag f = r.flag f := by
  have := f.bit_lt
  rw [h.flag, RegFile.flag_eq_spaceBit, maskedBit_outside _ _ _ _ _ _ (by unfold Flag.pos; omega)]

theorem BitsAre.congr {r r' : RegFile} {g g' : Nat → Bool} (h : BitsAre r r' g) (same : ∀ k, g k = g' k) :
    BitsAre r r' g' := ⟨h.1, fun k => (h.2 k).trans (same k)⟩

theorem BitsAre.setFlag {r r' : RegFile} {g : Nat → Bool} (h : BitsAre r r' g) (f : Flag) (b : Bool) :
    BitsAre r (r'.setFlag f b) fun k => if k = f.pos then b else g k :=
  ⟨h.1, fun k => by rw [RegFile.spaceBit_setFlag, h.2]⟩

theorem BitsAre.writeReg64 {r r' : RegFile} {g : Nat → Bool} (h : BitsAre r r' g) (x : Reg) (v : Word64)
    (size : x.size = 8) : BitsAre r (r'.write64 x.off v) fun k =>
      if 8 * x.off ≤ k ∧ k < 8 * (x.off + 8) then v.getLsbD (k - 8 * x.off) else g k :=
  ⟨h.1, fun k => by rw [RegFile.spaceBit_writeReg64 _ _ _ _ size, h.2]⟩

theorem BitsAre.read64 {r r' : RegFile} {g : Nat → Bool} (h : BitsAre r r' g) (o : Nat) {j : Nat} (hj : j < 64) :
    (r'.read64 o).getLsbD j = g (8 * o + j) := by
  rw [RegFile.read64_getLsbD _ _ _ hj, h.2]

theorem State.fstsClear_iff (s : State) :
    s.fstsClear = true ↔ s.flag .pfo = false ∧ s.flag .ppf = false ∧ s.flag .iqe = false := by
  simp [State.fstsClear, and_assoc]

/-- A flag assigned under a condition. -/
theorem BitsAre.setFlag_ite {r : RegFile} {s : State} {g : Nat → Bool} (h : BitsAre r s.regs g) (f : Flag) (b : Bool)
    {c d : Prop} [Decidable c] [Decidable d] (hcd : c ↔ d) :
    BitsAre r (if c then s.setFlag f b else s).regs fun k => if k = f.pos ∧ d then b else g k := by
  by_cases hd : d
  · rw [if_pos (hcd.mpr hd)]
    exact (h.setFlag f b).congr fun k => by simp [hd]
  · rw [if_neg (mt hcd.mp hd)]
    exact h.congr fun k => by simp [hd]

/-- The end of a fault (R264, R487): PPF is cleared, and the pending bit too if PFO and IQE are 0. -/
theorem BitsAre.releaseFaultRecord {r : RegFile} {s : State} {g : Nat → Bool} (h : BitsAre r s.regs g) :
    BitsAre r (releaseFaultRecord s).regs fun k =>
      if k = Flag.ppf.pos ∨ (k = Flag.feIp.pos ∧ g Flag.pfo.pos = false ∧ g Flag.iqe.pos = false) then false
      else g k := by
  have clear : (s.setFlag .ppf false).fstsClear = true ↔ g Flag.pfo.pos = false ∧ g Flag.iqe.pos = false := by
    rw [← h.flag, ← h.flag]
    simp [State.fstsClear_iff, State.flag]
  have freed : BitsAre r (s.setFlag .ppf false).regs _ := h.setFlag .ppf false
  refine (freed.setFlag_ite .feIp false clear).congr fun k => ?_
  by_cases hk : k = Flag.ppf.pos <;> simp [hk]

/-- The value that a completed invalidation leaves in its register, bit by bit. -/
theorem completed_getLsbD (v : Word64) {actual requested j : Nat} (hactual : actual + 2 ≤ 63) (hj : j < 64) :
    (setBit (setField v actual (field v requested 2)) 63 false).getLsbD j =
      if j = 63 then false else if j = actual then v.getLsbD requested
      else if j = actual + 1 then v.getLsbD (requested + 1) else v.getLsbD j := by
  have asked (i : Nat) (hi : i < 2) : (field v requested 2).getLsbD i = v.getLsbD (requested + i) := by
    rw [field, BitVec.getLsbD_extractLsb', decide_eq_true hi, Bool.true_and]
  rw [setBit_getLsbD _ _ _ _ hj, setField_getLsbD _ _ _ _ hj]
  by_cases inside : actual ≤ j ∧ j < actual + 2
  · obtain rfl | rfl : j = actual ∨ j = actual + 1 := by omega
    · simp only [if_pos inside, Nat.sub_self, asked 0 (by decide), if_true, Nat.add_zero]
    · simp only [if_pos inside, Nat.add_sub_cancel_left, asked 1 (by decide), if_true, Nat.succ_ne_self, if_false]
  · simp [inside, show j ≠ actual by omega, show j ≠ actual + 1 by omega]

/-- A requested invalidation completes at once (R262, R263): the request bit 63 reads 0, and the actual granularity at
`actual` is the one requested at `requested`. -/
theorem BitsAre.completeInvalidation {r : RegFile} {s : State} {g : Nat → Bool} (h : BitsAre r s.regs g) (x : Reg)
    (actual requested : Nat) (size : x.size = 8) (hactual : actual + 2 ≤ 63) (hrequested : requested + 2 ≤ 64) :
    BitsAre r (if (s.reg64 x).getLsbD 63 then
        s.setReg64 x (setBit (setField (s.reg64 x) actual (field (s.reg64 x) requested 2)) 63 false) else s).regs fun k =>
      if g (8 * x.off + 63) = false then g k
      else if k = 8 * x.off + 63 then false
      else if k = 8 * x.off + actual then g (8 * x.off + requested)
      else if k = 8 * x.off + actual + 1 then g (8 * x.off + requested + 1)
      else g k := by
  have bit {j : Nat} (hj : j < 64) : (s.reg64 x).getLsbD j = g (8 * x.off + j) := h.read64 x.off hj
  rw [bit (by decide)]
  cases requestBit : g (8 * x.off + 63) with
  | false => exact h
  | true =>
    refine (h.writeReg64 x _ size).congr fun k => ?_
    by_cases inside : 8 * x.off ≤ k ∧ k < 8 * (x.off + 8)
    · obtain ⟨j, rfl, hj⟩ : ∃ j, k = 8 * x.off + j ∧ j < 64 := ⟨k - 8 * x.off, by omega, by omega⟩
      rw [if_pos inside, Nat.add_sub_cancel_left, completed_getLsbD _ hactual hj, bit hj, bit (by omega), bit (by omega)]
      simp [Nat.add_assoc]
    · rw [if_neg inside, if_neg (by decide), if_neg (by omega), if_neg (by omega), if_neg (by omega)]

/-! ### What a handler does -/

/-- The condition of a handler that acts when its write takes a flag from 1 to 0. -/
theorem fell_iff (old new : Bool) : (old && !new) = true ↔ old = true ∧ new = false := by
  rw [Bool.and_eq_true, Bool.not_eq_true']

theorem frcdHiHandler_cleared {old new : Bool} (h : old = true ∧ new = false) (s : State) :
    frcdHiHandler old new s = releaseFaultRecord s := if_pos ((fell_iff old new).mpr h)

theorem frcdHiHandler_kept {old new : Bool} (h : ¬ (old = true ∧ new = false)) (s : State) :
    frcdHiHandler old new s = s := if_neg (mt (fell_iff old new).mp h)

/-- The condition under which a write to an event's control register sends it. -/
theorem delivers_iff (s : State) (k : EventKind) (old new : Bool) :
    (old && !new && s.flag k.ip) = true ↔ old = true ∧ new = false ∧ s.flag k.ip = true := by
  rw [Bool.and_eq_true, fell_iff, and_assoc]

/-- An event that is pending when it is unmasked is sent, with the message that its registers hold then and after it
(R260, R261). -/
theorem deliverOnUnmask_sent {s : State} {k : EventKind} {old new : Bool}
    (h : old = true ∧ new = false ∧ s.flag k.ip = true) :
    ∃ a d, deliverOnUnmask s k old new = (s.emit (.sendMsi a d)).setFlag k.ip false ∧
      EventMsi (deliverOnUnmask s k old new) k a d := by
  have run : deliverOnUnmask s k old new = (sendEventMsi s k).setFlag k.ip false :=
    if_pos ((delivers_iff s k old new).mpr h)
  obtain ⟨addr, uaddr, data, ecap⟩ := reg_setFlag_ip (sendEventMsi s k) k k false
  rw [run]
  exact ⟨_, _, rfl, (eventMsi_bits s k).of_eq addr uaddr data ecap⟩

theorem deliverOnUnmask_not_sent {s : State} {k : EventKind} {old new : Bool}
    (h : ¬ (old = true ∧ new = false ∧ s.flag k.ip = true)) : deliverOnUnmask s k old new = s :=
  if_neg (mt (delivers_iff s k old new).mp h)

/-- The IQT handler adds its wake to a wake that is already pending (R431). -/
theorem iqtHandler_eq (s : State) :
    iqtHandler s = s.withWake (s.wakePending || (s.flag .qies && !s.flag .iqe)) := by
  unfold iqtHandler
  cases s.flag .qies && !s.flag .iqe with
  | true => rw [if_pos rfl, Bool.or_true]
  | false => rw [if_neg Bool.false_ne_true, Bool.or_false, State.withWake_self]

/-! ### The frame of the handlers -/

/-- From `s` to `t` nothing but the register file changes. -/
def OnlyRegs (s t : State) : Prop := t = { s with regs := t.regs }

theorem OnlyRegs.refl (s : State) : OnlyRegs s s := rfl

theorem OnlyRegs.trans {s t u : State} (h : OnlyRegs s t) (h' : OnlyRegs t u) : OnlyRegs s u := by
  unfold OnlyRegs at *
  rw [h', h]

theorem OnlyRegs.ite {s t u : State} {c : Prop} [Decidable c] (h : OnlyRegs s t) (h' : OnlyRegs s u) :
    OnlyRegs s (if c then t else u) := by
  split
  · exact h
  · exact h'

theorem onlyRegs_withRegs (s : State) (r : RegFile) : OnlyRegs s (s.withRegs r) := rfl
theorem onlyRegs_setFlag (s : State) (f : Flag) (b : Bool) : OnlyRegs s (s.setFlag f b) := rfl
theorem onlyRegs_setReg64 (s : State) (x : Reg) (v : Word64) : OnlyRegs s (s.setReg64 x v) := rfl

theorem onlyRegs_dropFaultPending (s : State) : OnlyRegs s (dropFaultPending s) := .ite (onlyRegs_setFlag _ _ _) (.refl s)

theorem onlyRegs_icsHandler (old new : Bool) (s : State) : OnlyRegs s (icsHandler old new s) :=
  .ite (onlyRegs_setFlag _ _ _) (.refl s)

theorem onlyRegs_frcdHiHandler (old new : Bool) (s : State) : OnlyRegs s (frcdHiHandler old new s) :=
  .ite ((onlyRegs_setFlag _ _ _).trans (onlyRegs_dropFaultPending _)) (.refl s)

theorem onlyRegs_ccmdHandler (new : Word64) (s : State) : OnlyRegs s (ccmdHandler new s) :=
  .ite (onlyRegs_setReg64 _ _ _) (.refl s)

theorem onlyRegs_iotlbHandler (new : Word64) (s : State) : OnlyRegs s (iotlbHandler new s) :=
  .ite (onlyRegs_setReg64 _ _ _) (.refl s)

/-- An accepted write is of four or eight bytes and aligned to its size (R131). -/
theorem write_aligned {i : Instr} {w : Windows} {off n : Nat} {v : Word64} (hw : writeOf i = some (off, n, v))
    (ha : Accepts w off n) : (n = 4 ∧ off % 4 = 0) ∨ (n = 8 ∧ off % 8 = 0) := by
  obtain ⟨aligned, -⟩ := ha
  rcases writeOf_size hw with rfl | rfl
  · exact .inl ⟨rfl, aligned⟩
  · exact .inr ⟨rfl, aligned⟩

/-- An accepted write whose handlers change nothing but registers is described by the register space that they leave. -/
theorem exec_write_of_onlyRegs {s : State} {i : Instr} {off n : Nat} {v : Word64} {g : Nat → Bool}
    (hw : writeOf i = some (off, n, v)) (ha : Accepts s.regs.win off n)
    (handlers : ∀ after, BitsAre s.regs after (maskedBit s.params s.regs off n v) →
      OnlyRegs (s.withRegs after) (runHandlers s.regs after off n v (s.withRegs after)) ∧
        BitsAre s.regs (runHandlers s.regs after off n v (s.withRegs after)).regs g) :
    ∃ t, exec i s = .next t ∧ t = { s with regs := t.regs } ∧ BitsAre s.regs t.regs g := by
  obtain ⟨after, bits, run⟩ := exec_write hw ha
  obtain ⟨frame, left⟩ := handlers after bits
  exact ⟨_, run, (onlyRegs_withRegs s after).trans frame, left⟩

end Sys2Proof.Machine
end

section
/-! The fault slot (R485, R487, D20): one view `State.slot` of the two flags that `SlotInv` compares. Each operation but the
taking of a fault and the MMIO write that frees the slot is shown to leave both; those two are shown to keep them equal. -/

namespace Sys2Proof.Machine

/-! ### The two flags -/

/-- The flags that say whether the fault slot is occupied. -/
def State.slot (s : State) : Bool × Bool := (s.flag .ppf, s.flag .frcdF)

theorem slotInv_iff (s : State) : SlotInv s ↔ s.slot.1 = s.slot.2 := Iff.rfl

theorem slotInv_congr {s t : State} (h : t.slot = s.slot) : SlotInv t ↔ SlotInv s := by
  rw [slotInv_iff, slotInv_iff, h]

theorem slot_ite {s t u : State} {c : Prop} [Decidable c] (h : t.slot = s.slot) (h' : u.slot = s.slot) :
    (if c then t else u).slot = s.slot := by
  split
  · exact h
  · exact h'

theorem slot_setFlag (s : State) {f : Flag} (b : Bool) (hp : f ≠ .ppf) (hf : f ≠ .frcdF) :
    (s.setFlag f b).slot = s.slot := by
  rw [State.slot, State.flag_setFlag, State.flag_setFlag, if_neg hp.symm, if_neg hf.symm, State.slot]

theorem slot_setReg64 (s : State) (x : Reg) (v : Word64)
    (hp : Flag.ppf.off + 4 ≤ x.off ∨ x.off + 8 ≤ Flag.ppf.off)
    (hf : Flag.frcdF.off + 4 ≤ x.off ∨ x.off + 8 ≤ Flag.frcdF.off) : (s.setReg64 x v).slot = s.slot := by
  rw [State.slot, State.flag_setReg64_ne _ _ _ _ hp, State.flag_setReg64_ne _ _ _ _ hf, State.slot]

/-! ### Events and faults -/

theorem slot_raiseEvent (s : State) (k : EventKind) : (raiseEvent s k).slot = s.slot := by
  rw [State.slot, flag_raiseEvent_ne _ (by cases k <;> decide), flag_raiseEvent_ne _ (by cases k <;> decide),
    State.slot]

theorem slot_recordIqError (s : State) (e : IqError) : (recordIqError s e).slot = s.slot := by
  rw [recordIqError_eq, slot_raiseEvent, State.slot, flag_noteQueueError, flag_noteQueueError]
  rfl

theorem slot_stopBatch (s : State) (e : IqError) : (stopBatch s e).slot = s.slot := slot_recordIqError s e

theorem slot_dropFaultPending (s : State) : (dropFaultPending s).slot = s.slot :=
  slot_ite (slot_setFlag _ _ (by decide) (by decide)) rfl

theorem slot_deliverOnUnmask (s : State) (k : EventKind) (old new : Bool) :
    (deliverOnUnmask s k old new).slot = s.slot :=
  slot_ite (slot_setFlag _ _ (by cases k <;> decide) (by cases k <;> decide)) rfl

/-- The clearing of `FSTS.FRI` leaves every flag (R485). -/
theorem flag_clearFri (s : State) (f : Flag) :
    (s.setReg32 .fsts (setField (s.reg32 .fsts) 8 0#8)).flag f = s.flag f := by
  have place : f.pos < 8 * Reg.fsts.off + 8 ∨ 8 * (Reg.fsts.off + 4) ≤ f.pos := by cases f <;> decide
  rw [State.flag_eq_spaceBit, State.flag_eq_spaceBit, State.setReg32_regs, RegFile.spaceBit_writeReg32 _ _ _ _ rfl]
  split
  · next inside =>
    rw [setField_getLsbD _ _ _ _ (by omega), if_neg (by omega), State.reg32_getLsbD _ _ _ (by omega),
      Nat.add_sub_cancel' inside.1]
  · rfl

/-- A record is stored with F set (R485). -/
theorem flag_frcdF_storeRecord (s : State) (hi : Word64) :
    (s.setReg64 .frcdHi (hi ||| 1#64 <<< 63)).flag .frcdF = true := by
  rw [State.flag_eq_spaceBit, State.setReg64_regs, RegFile.spaceBit_writeReg64 _ _ _ _ rfl, if_pos (by decide),
    BitVec.getLsbD_or]
  exact Bool.or_eq_true_iff.mpr (.inr (by decide))

/-- A fault taken in a free slot sets both flags, and one that finds the slot occupied leaves them (R485). -/
theorem slotInv_recordPrimaryFault {s : State} (h : SlotInv s) (hi lo : Word64) :
    SlotInv (recordPrimaryFault s hi lo) := by
  rcases recordPrimaryFault_cases s hi lo with ⟨-, e⟩ | ⟨-, e⟩ <;> rw [e]
  · exact (slotInv_congr (slot_setFlag _ _ (by decide) (by decide))).mpr h
  · rw [slotInv_congr (slot_raiseEvent _ _), SlotInv, flag_clearFri, flag_clearFri, State.flag_setFlag,
      State.flag_setFlag, if_pos rfl, if_neg (by decide), flag_frcdF_storeRecord]

theorem slotInv_recordAtFault {s : State} (h : SlotInv s) (f : AtFault) (r : FaultReq) (fpd : Bool) :
    SlotInv (recordAtFault s f r fpd) := by
  unfold recordAtFault
  split
  · exact h
  · exact slotInv_recordPrimaryFault (s := s.withDiag (.at f)) h _ _

theorem slotInv_recordIrFault {s : State} (h : SlotInv s) (f : IrFault) (sid : BitVec 16) (index : Option Nat)
    (fpd : Bool) : SlotInv (recordIrFault s f sid index fpd) := by
  unfold recordIrFault
  split
  · exact h
  · exact slotInv_recordPrimaryFault (s := s.withDiag (.ir f)) h _ _

/-! ### Global commands -/

theorem slot_setLevel (f : Flag) (on : Bool) (s : State) (hp : f ≠ .ppf) (hf : f ≠ .frcdF) :
    (setLevel f on s).slot = s.slot := slot_ite rfl (slot_setFlag _ _ hp hf)

theorem slot_wakeIfPending (s : State) : (wakeIfPending s).slot = s.slot := slot_ite rfl rfl

theorem slot_setQie (on : Bool) (s : State) : (setQie on s).slot = s.slot := by
  unfold setQie
  split_ifs
  · rfl
  · exact (slot_wakeIfPending _).trans (slot_setFlag _ _ (by decide) (by decide))
  · exact (slot_setReg64 _ _ _ (by decide) (by decide)).trans (slot_setFlag _ _ (by decide) (by decide))

theorem slot_captureRoot (s : State) : (captureRoot s).slot = s.slot := slot_setFlag _ _ (by decide) (by decide)

theorem slot_captureIrt (s : State) : (captureIrt s).slot = s.slot := slot_setFlag _ _ (by decide) (by decide)

theorem slot_gcmdHandler (w : Word32) (s : State) : (gcmdHandler w s).slot = s.slot := by
  refine (slot_setLevel _ _ _ (by decide) (by decide)).trans ?_
  refine (slot_ite (slot_captureIrt _) rfl).trans ?_
  refine (slot_ite (slot_captureRoot _) rfl).trans ?_
  refine (slot_setLevel _ _ _ (by decide) (by decide)).trans ?_
  exact (slot_setLevel _ _ _ (by decide) (by decide)).trans (slot_setQie _ _)

/-! ### MMIO writes -/

theorem slot_onOverlap (x : Reg) (off n : Nat) (f : State → State) (s : State) (h : ∀ t, (f t).slot = t.slot) :
    (onOverlap x off n f s).slot = s.slot := slot_ite (h s) rfl

theorem slot_ccmdHandler (new : Word64) (s : State) : (ccmdHandler new s).slot = s.slot :=
  slot_ite (slot_setReg64 _ _ _ (by decide) (by decide)) rfl

theorem slot_iotlbHandler (new : Word64) (s : State) : (iotlbHandler new s).slot = s.slot :=
  slot_ite (slot_setReg64 _ _ _ (by decide) (by decide)) rfl

theorem slot_iqtHandler (s : State) : (iqtHandler s).slot = s.slot := slot_ite rfl rfl

theorem slot_icsHandler (old new : Bool) (s : State) : (icsHandler old new s).slot = s.slot :=
  slot_ite (slot_setFlag _ _ (by decide) (by decide)) rfl

/-- Of the handlers of a write only that of FRCD_HI acts on the slot, and it runs last (R250). -/
theorem runHandlers_slot (before after : RegFile) (off n : Nat) (v : Word64) (s : State) :
    ∃ u, u.slot = s.slot ∧ runHandlers before after off n v s =
      onOverlap .frcdHi off n (frcdHiHandler (before.flag .frcdF) (after.flag .frcdF)) u := by
  refine ⟨_, ?_, rfl⟩
  refine (slot_onOverlap _ _ _ _ _ (slot_iotlbHandler _)).trans ?_
  refine (slot_onOverlap _ _ _ _ _ fun t => slot_deliverOnUnmask t _ _ _).trans ?_
  refine (slot_onOverlap _ _ _ _ _ (slot_icsHandler _ _)).trans ?_
  refine (slot_onOverlap _ _ _ _ _ slot_iqtHandler).trans ?_
  refine (slot_onOverlap _ _ _ _ _ fun t => slot_deliverOnUnmask t _ _ _).trans ?_
  refine (slot_onOverlap _ _ _ _ _ slot_dropFaultPending).trans ?_
  refine (slot_onOverlap _ _ _ _ _ (slot_ccmdHandler _)).trans ?_
  exact slot_onOverlap _ _ _ _ _ (slot_gcmdHandler _)

/-- The end of a fault: PPF is 0, and F stays as software has left it (R264). -/
theorem slot_releaseFaultRecord (s : State) : (releaseFaultRecord s).slot = (false, s.flag .frcdF) := by
  rw [releaseFaultRecord, slot_dropFaultPending, State.slot, State.flag_setFlag, State.flag_setFlag, if_pos rfl,
    if_neg (by decide)]

/-- The FRCD_HI handler makes PPF follow F, which a write has cleared or left (R264). -/
theorem slotInv_frcdHiHandler {old new : Bool} {s : State} (ppf : s.flag .ppf = old) (frcdF : s.flag .frcdF = new)
    (onlyClears : new = true → old = true) : SlotInv (frcdHiHandler old new s) := by
  by_cases cleared : old = true ∧ new = false
  · rw [frcdHiHandler_cleared cleared, slotInv_iff, slot_releaseFaultRecord, frcdF, cleared.2]
  · rw [frcdHiHandler_kept cleared, SlotInv, ppf, frcdF, Bool.eq_iff_iff]
    exact ⟨fun held => eq_true_of_ne_false fun clear => cleared ⟨held, clear⟩, onlyClears⟩

/-- An MMIO write keeps PPF and F equal (R264). -/
theorem slotInv_exec_write {s t : State} {i : Instr} {off n : Nat} {v : Word64} (hw : writeOf i = some (off, n, v))
    (hs : SlotInv s) (h : exec i s = .next t) : SlotInv t := by
  by_cases ha : Accepts s.regs.win off n
  · obtain ⟨after, bits, run⟩ := exec_write hw ha
    obtain ⟨u, same, handlers⟩ := runHandlers_slot s.regs after off n v (s.withRegs after)
    have ppf : u.flag .ppf = s.flag .frcdF :=
      (congrArg Prod.fst same).trans ((bits.flag .ppf).trans ((maskedBit_ppf _ _ _ _ _).trans hs))
    have frcdF : u.flag .frcdF = after.flag .frcdF := congrArg Prod.snd same
    rw [h, handlers] at run
    cases run
    unfold onOverlap
    split
    · refine slotInv_frcdHiHandler ppf frcdF fun set => ?_
      rw [bits.flag] at set
      exact flag_frcdF_of_maskedBit set
    · next apart =>
      rw [overlaps, Bool.and_eq_true, decide_eq_true_eq, decide_eq_true_eq, Reg.off_frcdHi, Reg.size_frcdHi] at apart
      rw [SlotInv, ppf, frcdF]
      exact (bits.flag_outside .frcdF (by rw [Flag.off_frcdF]; omega)).symm
  · rw [exec_write_rejected hw ha] at h
    cases h
    exact hs

/-! ### Requests -/

theorem slotInv_recordWalked {s : State} (hs : SlotInv s) (req : Request) (w : Walked) :
    SlotInv (recordWalked s req w) := by
  rcases recordWalked_cases s req w with ⟨_, -, h⟩ | ⟨_, -, h⟩ | ⟨_, _, _, _, -, h⟩ | ⟨_, _, _, _, -, h⟩ <;> rw [h]
  · exact hs
  · exact hs
  · exact slotInv_recordAtFault hs _ _ _
  · exact slotInv_recordIrFault hs _ _ _ _

theorem slotInv_exec_request {i : Instr} {r : Request} {s t : State} (hr : requestOf i = some r) (hs : SlotInv s)
    (h : exec i s = .next t) : SlotInv t := by
  rw [(exec_requestOf hr s).2] at h
  split at h <;> cases h
  refine slotInv_recordWalked ?_ _ _
  exact hs

theorem slotInv_exec_call {p : Port} {i : Instr} {s t : State} (hp : sourceOf i = some (.call p)) (hs : SlotInv s)
    (h : exec i s = .next t) : SlotInv t := by
  cases i with
  | mmioR32 off => cases h; exact hs
  | mmioR64 off => cases h; exact hs
  | mmioW32 off v => exact slotInv_exec_write rfl hs h
  | mmioW64 off v => exact slotInv_exec_write rfl hs h
  | dmaTranslate | dmaBulk | irqRemapCompat | irqRemap => exact slotInv_exec_request rfl hs h
  | _ => simp [sourceOf] at hp

theorem slot_beginRequest {s t : State} {i : Instr} (h : beginRequest s i = .next t) : t.slot = s.slot := by
  unfold beginRequest at h
  split at h
  · cases h
  · split at h <;> cases h
    rfl

theorem slotInv_recordInFlight {s t : State} {k : Nat} (hs : SlotInv s) (h : recordInFlight s k = .next t) :
    SlotInv t := by
  obtain ⟨x, w, -, -, ⟨_, -, rfl⟩ | ⟨-, rfl⟩⟩ := recordInFlight_next h
  · exact hs
  · refine slotInv_recordWalked ?_ _ _
    exact hs

/-! ### The worker -/

theorem slot_checkQueue (s : State) : (checkQueue s).slot = s.slot := by
  rcases checkQueue_cases s with h | ⟨e, -, h⟩ | ⟨-, -, -, -, h⟩ <;> rw [h]
  · rfl
  · exact slot_stopBatch s e
  · rfl

theorem slot_workerIdle (s : State) : (workerIdle s).slot = s.slot :=
  slot_ite rfl (slot_ite (slot_checkQueue (s.withWake false)) rfl)

theorem slot_workerNext (s : State) : (workerNext s).slot = s.slot := slot_ite rfl (slot_checkQueue s)

theorem slot_workerAdvance (s : State) (q : QSnap) (bs : Option (List Byte)) : (workerAdvance s q bs).slot = s.slot := by
  cases bs with
  | none => exact slot_stopBatch s _
  | some b => exact slot_setReg64 s .iqh _ (by decide) (by decide)

theorem slot_workerSignal (s : State) (q : QSnap) (ds : List Desc) (k : Nat) : (workerSignal s q ds k).slot = s.slot :=
  slot_ite (t := s) rfl ((slot_raiseEvent _ _).trans (slot_setFlag _ _ (by decide) (by decide)))

theorem slot_waitStatusWrite (s : State) (d : Desc) : (waitStatusWrite s d).1.slot = s.slot := by
  unfold waitStatusWrite
  split
  · rcases memWrite_cases s (waitStatusAddr d) (waitStatusBytes d) with ⟨-, h⟩ | ⟨-, h⟩ <;> rw [h] <;> rfl
  · rfl

theorem slot_acknowledge {u : AckType} {s t : State} (h : acknowledge u s = .next t) : t.slot = s.slot := by
  unfold acknowledge at h
  split at h <;> cases h
  rfl

theorem slot_rejectType {s t : State} (h : rejectType s = .next t) : t.slot = s.slot := by
  unfold rejectType at h
  split at h <;> cases h
  exact slot_stopBatch s _

theorem slot_execDscInvWait {d : Desc} {s t : State} (h : execDscInvWait d s = .next t) : t.slot = s.slot := by
  have write := slot_waitStatusWrite s d
  unfold execDscInvWait at h
  split at h
  · split at h
    · cases h; exact slot_stopBatch s _
    · split at h
      · next s1 hw =>
        rw [hw] at write
        cases h; exact (slot_stopBatch s1 _).trans write
      · next s1 hw =>
        rw [hw] at write
        split at h <;> cases h <;> exact write
  · cases h

theorem slot_dispatch {d : Desc} {s t : State} (h : exec (decodeDesc d) s = .next t) : t.slot = s.slot := by
  rcases exec_decodeDesc_cases d s with ⟨u, e⟩ | e | e <;> rw [e] at h
  · exact slot_acknowledge h
  · exact slot_execDscInvWait h
  · exact slot_rejectType h

theorem slot_workerStep {s t : State} (h : workerStep s = .next t) : t.slot = s.slot := by
  rcases workerStep_cases s with ⟨-, e⟩ | ⟨q, -, e⟩ | ⟨q, bs, -, e⟩ | ⟨q, ds, k, -, e⟩ | ⟨q, ds, k, d, -, -, e⟩ |
    ⟨q, ds, k, -, -, e⟩ | ⟨-, e⟩ <;> rw [e] at h
  · cases h; exact slot_workerIdle s
  · cases h; rfl
  · cases h; exact slot_workerAdvance s q bs
  · cases h; exact slot_workerSignal s q ds k
  · exact slot_dispatch h
  · cases h; exact slot_workerNext s
  · cases h; rfl

/-! ### The step -/

theorem slot_oddAccess {s t : State} {isWrite : Bool} {n : Nat} (h : oddAccess isWrite n s = .next t) :
    t.slot = s.slot := by
  unfold oddAccess at h
  split at h
  · cases h
  · split at h <;> cases h <;> rfl

/-- After a reset the slot is free (R540). -/
theorem slotInv_hostReset {s t : State} (h : hostReset s = .next t) : SlotInv t := by
  unfold hostReset at h
  split at h <;> cases h
  exact (flag_resetRegs _ _ .ppf (by decide) (by decide)).trans
    (flag_resetRegs _ _ .frcdF (by decide) (by decide)).symm

theorem slotInv_runEvent {e : Event} {s t : State} (hs : SlotInv s) (he : ∀ img, e ≠ .restore img)
    (h : runEvent e s = .next t) : SlotInv t := by
  cases e with
  | call p bs =>
    obtain ⟨i, hd, hx⟩ := onDecoded_next h
    exact slotInv_exec_call (sourceOf_of_decode_call hd) hs hx
  | oddAccess isWrite off n => exact (slotInv_congr (slot_oddAccess h)).mpr hs
  | begin p bs =>
    obtain ⟨i, -, hb⟩ := onDecoded_next (k := fun i t => beginRequest t i) h
    exact (slotInv_congr (slot_beginRequest hb)).mpr hs
  | snapshot k =>
    obtain ⟨x, -, rfl⟩ := snapshotInFlight_next h
    exact hs
  | walk k =>
    obtain ⟨x, -, -, rfl⟩ := walkInFlight_next h
    exact hs
  | record k => exact slotInv_recordInFlight hs h
  | worker => exact (slotInv_congr (slot_workerStep h)).mpr hs
  | guestStore a bs => cases h; exact hs
  | reset => exact slotInv_hostReset h
  | restore img => exact absurd rfl (he img)
  | shutdown => cases h; exact hs

end Sys2Proof.Machine
end

section
/-! The statements of the register-access family: MMIO writes and the fault slot. -/

open Sys2Proof Sys2Proof.Machine

namespace Sys2Proof.RegisterAccess

/-- Settles O58: a step but a restore leaves both flags, takes a fault or frees the slot. -/
theorem slotKept : Obligations.SlotKept := by
  intro s t hs noRestore h
  rcases step_cases s with ⟨-, e⟩ | ⟨e, rest, ha, he⟩
  · rw [e] at h
    exact (slotInv_congr (slot_workerStep h)).mpr hs
  · rw [he] at h
    refine slotInv_runEvent (s := s.withAgenda rest) hs (fun img restore => noRestore img ?_) h
    rw [ha, restore, List.head?_cons]

/-- Settles O11: no handler runs. -/
theorem plainWrite : Obligations.PlainWrite := by
  intro s i off n v hw ha apart
  refine exec_write_of_onlyRegs hw ha fun after bits => ?_
  rw [runHandlers_plain _ _ _ _ _ _ apart]
  exact ⟨.refl _, bits⟩

/-- Settles O13: the second half is not read before the first is written. -/
theorem widthIndependence : Obligations.WidthIndependence := by
  intro p r off v _
  rw [RegFile.semWrite64_halves, RegFile.semWrite32, RegFile.semWrite32, RegFile.read32_write32_ne _ _ _ _ (.inl le_rfl)]

/-- Settles O14: the handler tests PFO, PPF and IQE as the write leaves them. -/
theorem fstsWrite : Obligations.FstsWrite := by
  intro s i off n v hw ha below above
  have form : (off = 0x034 ∧ n = 4) ∨ (off = 0x030 ∧ n = 8) := by
    have := write_aligned hw ha
    omega
  refine exec_write_of_onlyRegs hw ha fun after bits => ?_
  rw [runHandlers_fsts _ _ _ _ _ _ form]
  have left : BitsAre s.regs (s.withRegs after).regs _ := bits
  exact ⟨onlyRegs_dropFaultPending _, left.setFlag_ite .feIp false (by
    rw [State.fstsClear_iff, ← bits.flag, ← bits.flag, ← bits.flag]; rfl)⟩

/-- Settles O16: the handler compares IWC before and after the write. -/
theorem icsWrite : Obligations.IcsWrite := by
  intro s i off n v hw ha below above
  have form : (off = 0x09C ∧ n = 4) ∨ (off = 0x098 ∧ n = 8) := by
    have := write_aligned hw ha
    omega
  refine exec_write_of_onlyRegs hw ha fun after bits => ?_
  rw [runHandlers_ics _ _ _ _ _ _ form]
  have left : BitsAre s.regs (s.withRegs after).regs _ := bits
  exact ⟨onlyRegs_icsHandler _ _ _, left.setFlag_ite .ieIp false (by rw [fell_iff, bits.flag]; rfl)⟩

/-- Settles O17: the write itself leaves PFO and IQE, so that R266's test reads them as they were. -/
theorem frcdWrite : Obligations.FrcdWrite := by
  intro s i off n v hw ha below above
  have form : (off = 0xE78 ∧ (n = 4 ∨ n = 8)) ∨ (off = 0xE7C ∧ n = 4) := by
    have := write_aligned hw ha
    omega
  refine exec_write_of_onlyRegs hw ha fun after bits => ?_
  have kept (f : Flag) (low : f.off + 4 ≤ 0xE78) : maskedBit s.params s.regs off n v f.pos = s.flag f :=
    (bits.flag f).symm.trans (bits.flag_outside f (by omega))
  rw [runHandlers_frcdHi _ _ _ _ _ _ form, bits.flag, show s.regs.flag .frcdF = s.flag .frcdF from rfl]
  refine ⟨onlyRegs_frcdHiHandler _ _ _, ?_⟩
  by_cases cleared : s.flag .frcdF = true ∧ maskedBit s.params s.regs off n v Flag.frcdF.pos = false
  · rw [frcdHiHandler_cleared cleared]
    have left : BitsAre s.regs (s.withRegs after).regs _ := bits
    refine left.releaseFaultRecord.congr fun k => ?_
    simp only [kept .pfo (by decide), kept .iqe (by decide), cleared, true_and]
  · rw [frcdHiHandler_kept cleared]
    exact bits.congr fun k => (if_neg fun h => cleared ⟨h.1, h.2.1⟩).symm

/-- Settles O15: the write leaves IP, so that its handler reads it as it was. -/
theorem eventControlWrite : Obligations.EventControlWrite := by
  intro s i off n v k ctl hw ha hk below above
  obtain ⟨after, bits, run⟩ := exec_write hw ha
  have handler : runHandlers s.regs after off n v (s.withRegs after) =
      deliverOnUnmask (s.withRegs after) k (s.flag k.im) (maskedBit s.params s.regs off n v k.im.pos) := by
    have aligned := write_aligned hw ha
    rw [← bits.flag]
    rcases hk with ⟨rfl, rfl⟩ | ⟨rfl, rfl⟩
    · rw [Reg.off_fectl] at below above
      exact runHandlers_fectl _ _ _ _ _ _ (by omega)
    · rw [Reg.off_iectl] at below above
      exact runHandlers_iectl _ _ _ _ _ _ (by omega)
  have ip : (s.withRegs after).flag k.ip = s.flag k.ip := (bits.flag _).trans (maskedBit_ip _ _ _ _ _ _)
  rw [handler] at run
  refine ⟨_, run, ?_⟩
  rw [← ip]
  split
  · next unmasked =>
    obtain ⟨a, d, sent, msi⟩ := deliverOnUnmask_sent unmasked
    refine ⟨?_, ?_, a, d, msi, ?_⟩ <;> rw [sent]
    · rfl
    · exact bits.setFlag k.ip false
    · rfl
  · next still =>
    rw [deliverOnUnmask_not_sent still]
    exact ⟨rfl, bits, rfl⟩

/-- Settles O18: both handlers are one completion with the places of their own fields. -/
theorem invalidationRegisterWrite : Obligations.InvalidationRegisterWrite := by
  intro s i off n v reg actual requested hw ha hreg below above
  have aligned := write_aligned hw ha
  refine exec_write_of_onlyRegs hw ha fun after bits => ?_
  rcases hreg with ⟨rfl, rfl, rfl⟩ | ⟨rfl, rfl, rfl⟩
  · rw [runHandlers_ccmd _ _ _ _ _ _ (by omega)]
    exact ⟨onlyRegs_ccmdHandler _ _,
      bits.completeInvalidation (s := s.withRegs after) .ccmd 59 61 rfl (by decide) (by decide)⟩
  · rw [runHandlers_iotlb _ _ _ _ _ _ (by omega)]
    exact ⟨onlyRegs_iotlbHandler _ _,
      bits.completeInvalidation (s := s.withRegs after) .iotlb 57 60 rfl (by decide) (by decide)⟩

/-- Settles O19: the write leaves QIES and IQE, so that the handler reads them as they were. -/
theorem iqtWrite : Obligations.IqtWrite := by
  intro s i off n v hw ha below above
  have form : (off = 0x088 ∧ (n = 4 ∨ n = 8)) ∨ (off = 0x08C ∧ n = 4) := by
    have := write_aligned hw ha
    omega
  obtain ⟨after, bits, run⟩ := exec_write hw ha
  rw [runHandlers_iqt _ _ _ _ _ _ form] at run
  have outside (f : Flag) (low : f.off + 4 ≤ 0x088) : (s.withRegs after).flag f = s.flag f :=
    bits.flag_outside f (by omega)
  rw [iqtHandler_eq, outside .qies (by decide), outside .iqe (by decide)] at run
  exact ⟨_, run, rfl, bits⟩

end Sys2Proof.RegisterAccess
end

section
/-! The fields of the DMA-remapping structures (R180 to R190, R300 to R315): each check and each address of the walk is the one
that the declarative reading of the tables names. -/

namespace Sys2Proof.Machine

/-! ### Fields as numbers -/

theorem toNat_field {w : Nat} (v : BitVec w) (lo n : Nat) : (field v lo n).toNat = v.toNat / 2 ^ lo % 2 ^ n := by
  rw [field, BitVec.extractLsb'_toNat, Nat.shiftRight_eq_div_pow]

/-- A field shifted up is its number times a power of two. -/
theorem scaled_setWidth {n : Nat} (i : BitVec n) (k : Nat) :
    i.setWidth 64 <<< k = BitVec.ofNat 64 (2 ^ k * i.toNat) := by
  refine BitVec.eq_of_toNat_eq ?_
  rw [BitVec.toNat_shiftLeft, BitVec.toNat_setWidth, BitVec.toNat_ofNat, Nat.shiftLeft_eq, Nat.mod_mul_mod, Nat.mul_comm]

/-! ### Where the entries lie -/

theorem rootEntryAddr_eq (p : Params) (rt : Word64) (sid : BitVec 16) :
    (rt &&& hawMask p) + (sidBus sid).setWidth 64 <<< 4 = rootEntryAddr p rt sid := by
  have bus : (sidBus sid).toNat = sid.toNat / 256 := by
    have := sid.isLt
    rw [show sidBus sid = field sid 8 8 from rfl, toNat_field]
    omega
  rw [scaled_setWidth, bus]
  rfl

theorem ctxEntryAddr_eq (p : Params) (r0 : Word64) (sid : BitVec 16) :
    (r0 &&& hawMask p) + (sidDevfn sid).setWidth 64 <<< 4 = ctxEntryAddr p r0 sid := by
  have devfn : (sidDevfn sid).toNat = sid.toNat % 256 := by
    rw [show sidDevfn sid = field sid 0 8 from rfl, toNat_field]
    omega
  rw [scaled_setWidth, devfn]
  rfl

theorem slEntryAddr_eq (table addr : Word64) (level : Nat) :
    table + (slIndex addr level).setWidth 64 <<< 3 = slEntryAddr table addr level := by
  rw [scaled_setWidth, slIndex, toNat_field]
  rfl

/-! ### Root and context entries -/

theorem rootRsvd_eq_false_iff {p : Params} {r0 r1 : Word64} : rootRsvd p r0 r1 = false ↔ RootClean p r0 r1 := by
  simp [rootRsvd, RootClean]

theorem ctxRsvd_eq_false_iff {p : Params} {q0 q1 : Word64} : ctxRsvd p q0 q1 = false ↔ CtxClean p q0 q1 := by
  simp [ctxRsvd, CtxClean]

theorem awValid_iff {cap q1 : Word64} : awValid cap (ctxAw q1) = true ↔ WidthValid cap q1 := by
  simp [awValid, ctxAw, WidthValid, or_assoc]

/-- A domain ID has at most 16 bits, so that no bit of it is lost (R11, R184). -/
theorem toNat_ctxDid {p : Params} (hp : paramsOk p = true) (q1 : Word64) :
    (ctxDid p q1).toNat = q1.toNat / 256 % 2 ^ didWidth p := by
  simp only [paramsOk, Bool.and_eq_true, decide_eq_true_eq] at hp
  have width : didWidth p ≤ 16 := by unfold didWidth; omega
  have mask : (BitVec.ofNat 16 (2 ^ didWidth p - 1)).toNat = 2 ^ didWidth p - 1 := by
    have := Nat.pow_le_pow_right (n := 2) (by decide) width
    have := Nat.two_pow_pos (didWidth p)
    rw [BitVec.toNat_ofNat, Nat.mod_eq_of_lt (by omega)]
  rw [ctxDid, BitVec.toNat_and, mask, toNat_field, Nat.and_two_pow_sub_one_eq_mod,
    Nat.mod_mod_of_dvd _ (Nat.pow_dvd_pow 2 width)]
  rfl

/-! ### The low bits of a word -/

/-- The bits from `n` on, as a number. -/
theorem toNat_and_not_lowMask (x : Word64) {n : Nat} (hn : n ≤ 64) :
    (x &&& ~~~BitVec.ofNat 64 (2 ^ n - 1)).toNat = x.toNat / 2 ^ n * 2 ^ n := by
  refine Nat.eq_of_testBit_eq fun i => ?_
  rw [Nat.testBit_mul_two_pow, Nat.testBit_div_two_pow, BitVec.testBit_toNat, BitVec.getLsbD_and, BitVec.getLsbD_not]
  by_cases hi : i < 64
  · rw [lowMask_getLsbD _ _ hi, decide_eq_true hi, Bool.true_and, BitVec.testBit_toNat]
    by_cases h : n ≤ i
    · simp [h, show ¬ i < n by omega]
    · simp [h, show i < n by omega]
  · have high : n ≤ i := by omega
    simp [hi, high, BitVec.testBit_toNat, BitVec.getLsbD_of_ge x i (by omega)]

/-- The bits below `n`, as a number. -/
theorem toNat_and_lowMask (x : Word64) {n : Nat} (hn : n ≤ 64) :
    (x &&& BitVec.ofNat 64 (2 ^ n - 1)).toNat = x.toNat % 2 ^ n := by
  have := Nat.pow_le_pow_right (n := 2) (by decide) hn
  have := Nat.two_pow_pos n
  rw [BitVec.toNat_and, BitVec.toNat_ofNat, Nat.mod_eq_of_lt (by omega), Nat.and_two_pow_sub_one_eq_mod]

/-- A number has no bit above a width exactly when it is below the width's power of two (R308). -/
theorem and_mgawInvalidMask_eq_zero_iff (p : Params) (addr : Word64) :
    addr &&& mgawInvalidMask p = 0 ↔ addr.toNat < 2 ^ p.mgaw := by
  by_cases width : p.mgaw ≤ 64
  · have high : (addr &&& mgawInvalidMask p).toNat = addr.toNat / 2 ^ p.mgaw * 2 ^ p.mgaw :=
      toNat_and_not_lowMask addr width
    have pos := Nat.two_pow_pos p.mgaw
    rw [← BitVec.toNat_inj, high, BitVec.ofNat_eq_ofNat, BitVec.toNat_zero, Nat.mul_eq_zero, or_iff_left pos.ne',
      Nat.div_eq_zero_iff_lt pos]
  · have fits : addr.toNat < 2 ^ p.mgaw :=
      addr.isLt.trans_le (Nat.pow_le_pow_right (by decide) (by omega))
    refine iff_of_true (BitVec.eq_of_getLsbD_eq fun i hi => ?_) fits
    rw [mgawInvalidMask, BitVec.getLsbD_and, BitVec.getLsbD_not, lowMask_getLsbD _ _ hi,
      decide_eq_true (show i < p.mgaw by omega), BitVec.ofNat_eq_ofNat, BitVec.getLsbD_zero, Bool.not_true,
      Bool.and_false, Bool.and_false]

/-- The width check of R308. -/
theorem insideWidth_iff {p : Params} {q1 addr : Word64} :
    (addr &&& mgawInvalidMask p != 0 || decide (2 ^ (12 + 9 * ((ctxAw q1).toNat + 2)) ≤ addr.toNat)) = false ↔
      InsideWidth p q1 addr := by
  rw [Bool.or_eq_false_iff, bne_eq_false_iff_eq, and_mgawInvalidMask_eq_zero_iff, decide_eq_false_iff_not, Nat.not_le]
  rfl

/-! ### Second-level entries -/

theorem slIsLeaf_iff {level : Nat} {e : Word64} : slIsLeaf level e = true ↔ LeafEntry level e := by
  simp [slIsLeaf, LeafEntry, entryPs]

/-- A leaf lies at one of the levels 0 to 2. -/
theorem LeafEntry.le_two {level : Nat} {e : Word64} (h : LeafEntry level e) : level ≤ 2 := by
  rcases h with h | ⟨h | h, -⟩ <;> omega

/-- The output address of a leaf is its page's base and the input address's offset in the page (R190). -/
theorem toNat_slOutput {e : Word64} {level : Nat} (h : LeafEntry level e) (addr : Word64) :
    (slOutput e addr level).toNat = leafBase e level + addr.toNat % slPageSize level := by
  have width : 12 + 9 * level ≤ 64 := by have := h.le_two; omega
  have offset : addr.toNat % 2 ^ (12 + 9 * level) < 2 ^ (12 + 9 * level) := Nat.mod_lt _ (Nat.two_pow_pos _)
  rw [slOutput, BitVec.toNat_or, slPageSize, toNat_and_not_lowMask _ width, toNat_and_lowMask _ width,
    Nat.mul_comm, ← Nat.two_pow_add_eq_or_of_lt offset, Nat.mul_comm]
  rfl

/-- The check of the interrupt window is about the page's base and size (R315). -/
theorem inIrqWindow_eq_false_iff {p : Params} {out addr : Word64} {base size : Nat}
    (place : out.toNat = base + addr.toNat % size) : inIrqWindow p out addr size = false ↔ OutsideWindow p base size := by
  simp only [inIrqWindow, place, Nat.add_sub_cancel, Bool.and_eq_false_iff, decide_eq_false_iff_not, Nat.not_le,
    Nat.not_lt, OutsideWindow]

end Sys2Proof.Machine
end

section
/-! The second-level walk (R310 to R315): `slWalk` finds a leaf exactly where `SlPath` leads to one outside the interrupt
window, and faults exactly as `SlFaults` says. -/

namespace Sys2Proof.Machine

/-! ### One entry -/

section
variable {p : Params} {m : Memory} {cap : Word64} {flags : Perm} {addr : Word64} {eff eff' : Perm} {e table : Word64}
  {level : Nat} {f : AtFault} {l : SlLeaf} {o o1 o' : List MemAnswer}

/-- The checks of an entry in their order, as one condition and as the fault that comes first (R312, R313). -/
theorem slCheck_eq_none_iff : slCheck p cap flags eff e level = none ↔ EntryPasses p cap flags eff e level := by
  unfold slCheck EntryPasses
  split_ifs <;> simp_all

theorem slCheck_eq_some_iff : slCheck p cap flags eff e level = some f ↔ EntryFaultsWith p cap flags eff e level f := by
  simp only [slCheck, EntryFaultsWith, Bool.and_eq_true, Bool.not_eq_true', bne_iff_ne]
  split_ifs with write read rsvd
  · simp [eq_comm]
  · simp [eq_comm]
  · rw [Option.some_inj, eq_comm, and_iff_right rsvd]
  · exact iff_of_false (by simp) fun h => rsvd h.1

/-- The permissions left after an entry (R187, R310). -/
theorem permInter_entryPerm (eff : Perm) (e : Word64) : permInter eff (entryPerm e) = permsAfter eff e := rfl

/-- An entry is used exactly when its read succeeds and its checks pass (R311 to R313). -/
theorem slEntry_eq_ok_iff : slEntry p m cap flags addr table eff level o = (.ok (e, eff'), o') ↔
    Reads64 m o (slEntryAddr table addr level) e o' ∧ eff' = permsAfter eff e ∧
      EntryPasses p cap flags (permsAfter eff e) e level := by
  rw [slEntry, slEntryAddr_eq, ← memRead64_eq_some_iff, ← slCheck_eq_none_iff]
  rcases memRead64 m o (slEntryAddr table addr level) with ⟨_ | v, o1⟩
  · simp
  · simp only [permInter_entryPerm]
    cases check : slCheck p cap flags (permsAfter eff v) v level <;> grind

/-- An entry faults exactly when its read fails or a check does (R311 to R313). -/
theorem slEntry_eq_error_iff : slEntry p m cap flags addr table eff level o = (.error f, o') ↔
    (Fails o o' ∧ f = .slReadFailed) ∨
      ∃ e, Reads64 m o (slEntryAddr table addr level) e o' ∧ EntryFaultsWith p cap flags (permsAfter eff e) e level f := by
  rw [slEntry, slEntryAddr_eq, ← memRead64_eq_none_iff (m := m) (a := slEntryAddr table addr level)]
  simp only [← memRead64_eq_some_iff, ← slCheck_eq_some_iff]
  rcases memRead64 m o (slEntryAddr table addr level) with ⟨_ | v, o1⟩
  · simp [and_comm, eq_comm]
  · simp only [permInter_entryPerm]
    cases check : slCheck p cap flags (permsAfter eff v) v level <;> grind

/-- `l` is the leaf that the entry `e` at a level stands for, and its page does not meet the interrupt window (R314, R315). -/
def LeafMaps (p : Params) (addr e : Word64) (level : Nat) (l : SlLeaf) : Prop :=
  l.psize = 2 ^ (12 + 9 * level) ∧ l.out.toNat = leafBase e level + addr.toNat % l.psize ∧
    OutsideWindow p (leafBase e level) l.psize

theorem inIrqWindow_slOutput_iff (leaf : LeafEntry level e) :
    inIrqWindow p (slOutput e addr level) addr (slPageSize level) = false ↔
      OutsideWindow p (leafBase e level) (2 ^ (12 + 9 * level)) :=
  inIrqWindow_eq_false_iff (toNat_slOutput leaf addr)

theorem slLeaf_eq_ok_iff (leaf : LeafEntry level e) :
    slLeaf p addr e level eff = .ok l ↔ l.perm = eff ∧ LeafMaps p addr e level l := by
  have out := toNat_slOutput leaf addr
  have window := inIrqWindow_slOutput_iff (p := p) (addr := addr) leaf
  obtain ⟨lout, lpsize, lperm⟩ := l
  simp only [slLeaf, LeafMaps]
  split
  · next inside =>
    rw [inside] at window
    constructor
    · intro h; cases h
    · rintro ⟨-, rfl, -, outside⟩
      exact absurd (window.mpr outside) (by decide)
  · next outside =>
    rw [Bool.not_eq_true] at outside
    have outside := window.mp outside
    constructor
    · intro h
      cases h
      exact ⟨rfl, rfl, out, outside⟩
    · rintro ⟨rfl, rfl, same, -⟩
      have : slOutput e addr level = lout := BitVec.eq_of_toNat_eq (out.trans same.symm)
      rw [this]
      rfl

theorem slLeaf_eq_error_iff (leaf : LeafEntry level e) : slLeaf p addr e level eff = .error f ↔
    f = .outInWindow ∧ ¬ OutsideWindow p (leafBase e level) (2 ^ (12 + 9 * level)) := by
  rw [← inIrqWindow_slOutput_iff (addr := addr) leaf, slLeaf]
  split
  · next inside => simp [inside, eq_comm]
  · next outside => simp [outside]

/-! ### The loop -/

theorem slWalk_of_error (h : slEntry p m cap flags addr table eff level o = (.error f, o')) :
    slWalk p m cap flags addr level table eff o = (.error f, o') := by
  cases level with
  | zero => simp only [slWalk, h]
  | succ level => simp only [slWalk, h]

theorem slWalk_of_leaf (h : slEntry p m cap flags addr table eff level o = (.ok (e, eff'), o'))
    (leaf : LeafEntry level e) :
    slWalk p m cap flags addr level table eff o = (slLeaf p addr e level eff', o') := by
  cases level with
  | zero => simp only [slWalk, h]
  | succ level => simp only [slWalk, h, slIsLeaf_iff.mpr leaf, if_true]

theorem slWalk_of_not_leaf (h : slEntry p m cap flags addr table eff (level + 1) o = (.ok (e, eff'), o1))
    (notLeaf : ¬ LeafEntry (level + 1) e) :
    slWalk p m cap flags addr (level + 1) table eff o =
      slWalk p m cap flags addr level (e &&& 0x000FFFFFFFFFF000 &&& hawMask p) eff' o1 := by
  rw [← slIsLeaf_iff] at notLeaf
  simp only [slWalk, h, notLeaf]
  rfl

/-- The page tables lead from the table at a level to the leaf `l` (R310 to R315). -/
def SlMaps (p : Params) (m : Memory) (cap : Word64) (flags : Perm) (addr : Word64) (level : Nat) (table : Word64)
    (eff : Perm) (o : List MemAnswer) (l : SlLeaf) (o' : List MemAnswer) : Prop :=
  ∃ leafLevel e, SlPath p m cap flags addr level table eff o leafLevel e l.perm o' ∧ LeafMaps p addr e leafLevel l

/-- What the page tables say about a result of the walk. -/
def SlOutcome (p : Params) (m : Memory) (cap : Word64) (flags : Perm) (addr : Word64) (level : Nat) (table : Word64)
    (eff : Perm) (o : List MemAnswer) : Except AtFault SlLeaf × List MemAnswer → Prop
  | (.ok l, o') => SlMaps p m cap flags addr level table eff o l o'
  | (.error f, o') => SlFaults p m cap flags addr level table eff o f o'

/-- An entry that faults ends the walk as the page tables say. -/
theorem slOutcome_of_error (h : slEntry p m cap flags addr table eff level o = (.error f, o')) :
    SlOutcome p m cap flags addr level table eff o (.error f, o') := by
  rcases slEntry_eq_error_iff.mp h with ⟨fails, rfl⟩ | ⟨e, read, fault⟩
  · exact .unread level table eff o o' fails
  · exact .check level table e eff o o' f read fault

/-- At a leaf the walk ends as the page tables say. -/
theorem slOutcome_of_leaf (h : slEntry p m cap flags addr table eff level o = (.ok (e, eff'), o'))
    (leaf : LeafEntry level e) :
    SlOutcome p m cap flags addr level table eff o (slLeaf p addr e level eff', o') := by
  obtain ⟨read, rfl, ok⟩ := slEntry_eq_ok_iff.mp h
  cases found : slLeaf p addr e level (permsAfter eff e) with
  | ok l =>
    obtain ⟨perm, maps⟩ := (slLeaf_eq_ok_iff leaf).mp found
    exact ⟨level, e, perm ▸ .leaf level table e eff _ o o' read rfl ok leaf, maps⟩
  | error f =>
    obtain ⟨rfl, inside⟩ := (slLeaf_eq_error_iff leaf).mp found
    exact .window level table e eff o o' read ok leaf inside

/-- An entry that points to the next table hands its outcome on. -/
theorem slOutcome_down {r : Except AtFault SlLeaf × List MemAnswer}
    (h : slEntry p m cap flags addr table eff (level + 1) o = (.ok (e, eff'), o1)) (notLeaf : ¬ LeafEntry (level + 1) e)
    (next : SlOutcome p m cap flags addr level (e &&& 0x000FFFFFFFFFF000 &&& hawMask p) eff' o1 r) :
    SlOutcome p m cap flags addr (level + 1) table eff o r := by
  obtain ⟨read, rfl, ok⟩ := slEntry_eq_ok_iff.mp h
  rcases r with ⟨f | l, o'⟩
  · exact .down level table e eff o o1 o' f read ok notLeaf next
  · obtain ⟨leafLevel, leafEntry, path, maps⟩ := next
    exact ⟨leafLevel, leafEntry, .down level table e eff _ _ _ o o1 o' read ok notLeaf path, maps⟩

end

variable {p : Params} {m : Memory} {cap : Word64} {flags : Perm} {addr : Word64}

/-- The walk ends as the page tables say: its first entry faults, is a leaf, or hands on the outcome of the level below. -/
theorem slOutcome_slWalk (level : Nat) (table : Word64) (eff : Perm) (o : List MemAnswer) :
    SlOutcome p m cap flags addr level table eff o (slWalk p m cap flags addr level table eff o) := by
  rcases entry : slEntry p m cap flags addr table eff level o with ⟨f | ⟨e, eff'⟩, o1⟩
  · rw [slWalk_of_error entry]
    exact slOutcome_of_error entry
  · by_cases leaf : LeafEntry level e
    · rw [slWalk_of_leaf entry leaf]
      exact slOutcome_of_leaf entry leaf
    · cases level with
      | zero => exact absurd (.inl rfl) leaf
      | succ level =>
        rw [slWalk_of_not_leaf entry leaf]
        exact slOutcome_down entry leaf (slOutcome_slWalk level _ _ _)

section
variable {level : Nat} {table : Word64} {eff : Perm} {l : SlLeaf} {f : AtFault} {o o' : List MemAnswer}

/-- A path is walked to its leaf. -/
theorem SlPath.slWalk_eq {leafLevel : Nat} {e : Word64} {perm : Perm}
    (h : SlPath p m cap flags addr level table eff o leafLevel e perm o') :
    LeafEntry leafLevel e ∧ slWalk p m cap flags addr level table eff o = (slLeaf p addr e leafLevel perm, o') := by
  induction h with
  | leaf level table e eff eff' o o' read perms ok isLeaf =>
    subst perms
    exact ⟨isLeaf, slWalk_of_leaf (slEntry_eq_ok_iff.mpr ⟨read, rfl, ok⟩) isLeaf⟩
  | down level table e eff leafLevel leafEntry leafPerm o o1 o' read ok notLeaf next ih =>
    rwa [slWalk_of_not_leaf (slEntry_eq_ok_iff.mpr ⟨read, rfl, ok⟩) notLeaf]

/-- The walk finds exactly the leaves that the page tables lead to. -/
theorem slWalk_eq_ok_iff : slWalk p m cap flags addr level table eff o = (.ok l, o') ↔
    SlMaps p m cap flags addr level table eff o l o' := by
  constructor
  · intro h
    have := slOutcome_slWalk (p := p) (m := m) (cap := cap) (flags := flags) (addr := addr) level table eff o
    rwa [h] at this
  · rintro ⟨leafLevel, e, path, maps⟩
    obtain ⟨leaf, walk⟩ := path.slWalk_eq
    rw [walk, (slLeaf_eq_ok_iff leaf).mpr ⟨rfl, maps⟩]

/-- The walk raises exactly the faults that the page tables raise. -/
theorem slWalk_eq_error_iff : slWalk p m cap flags addr level table eff o = (.error f, o') ↔
    SlFaults p m cap flags addr level table eff o f o' := by
  constructor
  · intro h
    have := slOutcome_slWalk (p := p) (m := m) (cap := cap) (flags := flags) (addr := addr) level table eff o
    rwa [h] at this
  · intro h
    induction h with
    | unread level table eff o o' fails => exact slWalk_of_error (slEntry_eq_error_iff.mpr (.inl ⟨fails, rfl⟩))
    | check level table e eff o o' f read fault =>
      exact slWalk_of_error (slEntry_eq_error_iff.mpr (.inr ⟨e, read, fault⟩))
    | window level table e eff o o' read ok isLeaf inside =>
      rw [slWalk_of_leaf (slEntry_eq_ok_iff.mpr ⟨read, rfl, ok⟩) isLeaf, (slLeaf_eq_error_iff isLeaf).mpr ⟨rfl, inside⟩]
    | down level table e eff o o1 o' f read ok notLeaf next ih =>
      rwa [slWalk_of_not_leaf (slEntry_eq_ok_iff.mpr ⟨read, rfl, ok⟩) notLeaf]

end

end Sys2Proof.Machine
end

section
/-! The page lookup (R294, R300 to R316): `lookupPage` answers a hit exactly where `PageMapped` says so and a fault exactly
where `PageFaults` does, from the second-level path of a context entry up to the root entry. -/

namespace Sys2Proof.Machine

variable {p : Params} {m : Memory} {sn : Snap} {sid : BitVec 16} {flags : Perm} {atype : AddrType} {addr q0 q1 : Word64}
  {f : AtFault} {h : PageHit} {o o' : List MemAnswer}

/-! ### The second-level path of a context entry -/

/-- The checks before the walk, in their order (R307, R308). -/
theorem slLookup_eq (cap : Word64) : slLookup p m cap flags atype addr q0 q1 o =
    if atype ≠ .untranslated then (.error .ttBlocked, o)
    else if ¬ WidthValid cap q1 then (.error .ctxAwInvalid, o)
    else if ¬ InsideWidth p q1 addr then (.error .addrBeyondWidth, o)
    else slWalk p m cap flags addr ((field q1 0 3).toNat + 1) (q0 &&& hawMask p) ⟨true, true⟩ o :=
  if_congr Iff.rfl rfl <| if_congr (by rw [← awValid_iff, Bool.not_eq_true', Bool.not_eq_true]) rfl <|
    if_congr (by rw [← insideWidth_iff, Bool.not_eq_false]) rfl rfl

/-- A second-level path gives a leaf when the address type, the widths and the page tables allow it (R307 to R315). -/
theorem slLookup_eq_ok_iff {cap : Word64} {l : SlLeaf} : slLookup p m cap flags atype addr q0 q1 o = (.ok l, o') ↔
    atype = .untranslated ∧ WidthValid cap q1 ∧ InsideWidth p q1 addr ∧
      SlMaps p m cap flags addr ((field q1 0 3).toNat + 1) (q0 &&& hawMask p) ⟨true, true⟩ o l o' := by
  rw [slLookup_eq, ← slWalk_eq_ok_iff]
  split_ifs with translated width inside
  · exact iff_of_false (by simp) fun h => translated h.1
  · rw [and_iff_right (not_not.mp translated), and_iff_right width, and_iff_right inside]
  · exact iff_of_false (by simp) fun h => inside h.2.2.1
  · exact iff_of_false (by simp) fun h => width h.2.1

/-- Two failed lookups are the same if the faults and the answers left are. -/
theorem error_pair_eq_iff {α : Type} {f g : AtFault} {o o' : List MemAnswer} :
    ((.error g : Except AtFault α), o) = (.error f, o') ↔ f = g ∧ o' = o := by
  simp [eq_comm]

/-- A second-level path raises the fault that comes first in the order of R307 to R315. -/
theorem slLookup_eq_error_iff {cap : Word64} : slLookup p m cap flags atype addr q0 q1 o = (.error f, o') ↔
    if atype ≠ .untranslated then f = .ttBlocked ∧ o' = o
    else if ¬ WidthValid cap q1 then f = .ctxAwInvalid ∧ o' = o
    else if ¬ InsideWidth p q1 addr then f = .addrBeyondWidth ∧ o' = o
    else SlFaults p m cap flags addr ((field q1 0 3).toNat + 1) (q0 &&& hawMask p) ⟨true, true⟩ o f o' := by
  rw [slLookup_eq]
  split_ifs
  · exact error_pair_eq_iff
  · exact slWalk_eq_error_iff
  · exact error_pair_eq_iff
  · exact error_pair_eq_iff

/-! ### The context entry -/

section
variable (p m sn flags atype addr q0 q1 o)

/-- What a lookup does once it has read the context entry (R303 to R307). -/
def ctxLookup : Except AtFault PageHit × List MemAnswer :=
  if q0.getLsbD 0 = false then (.error .ctxNotPresent, o)
  else if ¬ CtxClean p q0 q1 then (.error .ctxRsvd, o)
  else ctxBranch p m sn flags atype addr q0 q1 o

/-- A context entry of translation type 0 takes the second-level path. -/
theorem ctxBranch_of_mapped (tt : field q0 2 2 = 0) : ctxBranch p m sn flags atype addr q0 q1 o =
    ((slLookup p m sn.cap flags atype addr q0 q1 o).1.map fun l => ⟨l.out, l.psize, l.perm, ctxDid p q1, false⟩,
      (slLookup p m sn.cap flags atype addr q0 q1 o).2) := by
  rw [ctxBranch, if_pos (show ctxTt q0 = 0b00 from tt)]
  rcases slLookup p m sn.cap flags atype addr q0 q1 o with ⟨_ | _, _⟩ <;> rfl

/-- A context entry of translation type 2 is passed through, if the capability and its address width allow it (R305). -/
theorem ctxBranch_of_passThrough (tt : field q0 2 2 = 2) : ctxBranch p m sn flags atype addr q0 q1 o =
    if sn.ecap.getLsbD 6 = true ∧ WidthValid sn.cap q1 then (.ok ⟨addr, 0, permFull, ctxDid p q1, true⟩, o)
    else (.error .ctxTtInvalid, o) := by
  have other : ctxTt q0 ≠ 0b00 := by rw [ctxTt, tt]; decide
  rw [ctxBranch, if_neg other]
  exact if_congr (by rw [awValid_iff, and_iff_right (show ctxTt q0 = 0b10 from tt)]) rfl rfl

/-- The other translation types are invalid (R306). -/
theorem ctxBranch_of_invalid (tt : field q0 2 2 = 1 ∨ field q0 2 2 = 3) : ctxBranch p m sn flags atype addr q0 q1 o =
    (.error .ctxTtInvalid, o) := by
  have other : ctxTt q0 ≠ 0b00 ∧ ctxTt q0 ≠ 0b10 := by
    rcases tt with tt | tt <;> rw [ctxTt, tt] <;> decide
  rw [ctxBranch, if_neg other.1, if_neg fun h => other.2 h.1]

end

/-- The four translation types (R185). -/
theorem ctxTt_cases (q0 : Word64) : field q0 2 2 = 0 ∨ field q0 2 2 = 2 ∨ field q0 2 2 = 1 ∨ field q0 2 2 = 3 := by
  generalize field q0 2 2 = tt
  revert tt
  decide

/-- What a context entry whose address width is valid says about one page (R304 to R315): it is passed through, or the page
tables map it. -/
def CtxMaps (p : Params) (m : Memory) (sn : Snap) (flags : Perm) (atype : AddrType) (addr q0 q1 : Word64)
    (o : List MemAnswer) (h : PageHit) (o' : List MemAnswer) : Prop :=
  (field q0 2 2 = 2 ∧ sn.ecap.getLsbD 6 = true ∧ o' = o ∧ h.isPt = true ∧ h.out = addr ∧ h.psize = 0 ∧
      h.perm = ⟨true, true⟩) ∨
    (field q0 2 2 = 0 ∧ atype = .untranslated ∧ h.isPt = false ∧ InsideWidth p q1 addr ∧
      SlMaps p m sn.cap flags addr ((field q1 0 3).toNat + 1) (q0 &&& hawMask p) ⟨true, true⟩ o
        ⟨h.out, h.psize, h.perm⟩ o')

/-- The hits of a context entry that is present and has no reserved bit set (R304 to R315). -/
theorem ctxBranch_eq_ok_iff : ctxBranch p m sn flags atype addr q0 q1 o = (.ok h, o') ↔
    WidthValid sn.cap q1 ∧ h.did = ctxDid p q1 ∧ CtxMaps p m sn flags atype addr q0 q1 o h o' := by
  obtain ⟨out, psize, perm, did, isPt⟩ := h
  have differ {a b : BitVec 2} (ne : a ≠ b) (ha : field q0 2 2 = a) (hb : field q0 2 2 = b) : False := ne (ha.symm.trans hb)
  rcases ctxTt_cases q0 with tt | tt | tt
  · rw [ctxBranch_of_mapped _ _ _ _ _ _ _ _ _ tt]
    constructor
    · intro found
      rcases look : slLookup p m sn.cap flags atype addr q0 q1 o with ⟨f | l, o1⟩ <;> rw [look] at found <;> cases found
      obtain ⟨untranslated, width, inside, maps⟩ := slLookup_eq_ok_iff.mp look
      exact ⟨width, rfl, .inr ⟨tt, untranslated, rfl, inside, maps⟩⟩
    · rintro ⟨width, rfl, ⟨tt', -⟩ | ⟨-, untranslated, rfl, inside, maps⟩⟩
      · exact (differ (by decide) tt tt').elim
      · rw [slLookup_eq_ok_iff.mpr ⟨untranslated, width, inside, maps⟩]
        rfl
  · rw [ctxBranch_of_passThrough _ _ _ _ _ _ _ _ _ tt]
    split_ifs with usable
    · constructor
      · intro found
        cases found
        exact ⟨usable.2, rfl, .inl ⟨tt, usable.1, rfl, rfl, rfl, rfl, rfl⟩⟩
      · rintro ⟨-, rfl, ⟨-, -, rfl, rfl, rfl, rfl, rfl⟩ | ⟨tt', -⟩⟩
        · rfl
        · exact (differ (by decide) tt tt').elim
    · refine iff_of_false (by simp) ?_
      rintro ⟨width, -, ⟨-, passThrough, -⟩ | ⟨tt', -⟩⟩
      · exact usable ⟨passThrough, width⟩
      · exact differ (by decide) tt tt'
  · rw [ctxBranch_of_invalid _ _ _ _ _ _ _ _ _ tt]
    refine iff_of_false (by simp) ?_
    rintro ⟨-, -, ⟨tt', -⟩ | ⟨tt', -⟩⟩ <;> rcases tt with tt | tt <;> exact differ (by decide) tt tt'

theorem ctxLookup_eq_ok_iff : ctxLookup p m sn flags atype addr q0 q1 o = (.ok h, o') ↔
    q0.getLsbD 0 = true ∧ CtxClean p q0 q1 ∧ WidthValid sn.cap q1 ∧ h.did = ctxDid p q1 ∧
      CtxMaps p m sn flags atype addr q0 q1 o h o' := by
  rw [← ctxBranch_eq_ok_iff, ctxLookup]
  split_ifs with absent clean
  · exact iff_of_false (by simp) fun h => Bool.false_ne_true (absent.symm.trans h.1)
  · rw [and_iff_right (Bool.eq_true_of_not_eq_false absent), and_iff_right clean]
  · exact iff_of_false (by simp) fun h => clean h.2.1

/-- A context entry that has been read raises the fault that comes first in the order of R303 to R315. -/
theorem ctxLookup_eq_error_iff : ctxLookup p m sn flags atype addr q0 q1 o = (.error f, o') ↔
    CtxFaults p m sn flags atype addr q0 q1 o f o' := by
  by_cases absent : q0.getLsbD 0 = false
  · rw [ctxLookup, CtxFaults, if_pos absent, if_pos absent, error_pair_eq_iff]
  by_cases clean : CtxClean p q0 q1
  swap
  · rw [ctxLookup, CtxFaults, if_neg absent, if_neg absent, if_pos clean, if_pos clean, error_pair_eq_iff]
  rw [ctxLookup, CtxFaults, if_neg absent, if_neg absent, if_neg (not_not.mpr clean), if_neg (not_not.mpr clean)]
  rcases ctxTt_cases q0 with tt | tt | tt
  · have : ¬ (field q0 2 2 = 0b01 ∨ field q0 2 2 = 0b11) ∧ ¬ field q0 2 2 = 0b10 := by rw [tt]; decide
    rw [ctxBranch_of_mapped _ _ _ _ _ _ _ _ _ tt, if_neg this.1, if_neg this.2, ← slLookup_eq_error_iff (q0 := q0)]
    rcases slLookup p m sn.cap flags atype addr q0 q1 o with ⟨g | l, o1⟩
    · exact error_pair_eq_iff.trans error_pair_eq_iff.symm
    · exact iff_of_false (by simp [Except.map]) (by simp)
  · have other : ¬ (field q0 2 2 = 0b01 ∨ field q0 2 2 = 0b11) := by rw [tt]; decide
    rw [ctxBranch_of_passThrough _ _ _ _ _ _ _ _ _ tt, if_neg other, if_pos tt]
    split_ifs with usable
    · exact iff_of_false (by simp) fun h => h.1 usable
    · rw [error_pair_eq_iff, and_iff_right usable]
  · rw [ctxBranch_of_invalid _ _ _ _ _ _ _ _ _ tt, if_pos tt, error_pair_eq_iff]

/-! ### The root entry and the whole lookup -/

section
variable {r0 r1 : Word64} {o1 o2 : List MemAnswer}

/-- A lookup that reads both entries is the lookup from the context entry, its faults qualified by FPD (R303, R490). -/
theorem lookupPage_of_ctx (readRoot : Reads128 m o (rootEntryAddr p sn.rt sid) r0 r1 o1) (present : r0.getLsbD 0 = true)
    (clean : RootClean p r0 r1) (readCtx : Reads128 m o1 (ctxEntryAddr p r0 sid) q0 q1 o2) :
    lookupPage p m sn sid flags atype addr o =
      ((ctxLookup p m sn flags atype addr q0 q1 o2).1.mapError (·, q0.getLsbD 1),
        (ctxLookup p m sn flags atype addr q0 q1 o2).2) := by
  rw [← memRead128_eq_some_iff] at readRoot readCtx
  rw [← rootRsvd_eq_false_iff] at clean
  simp only [lookupPage, rootEntryAddr_eq, ctxEntryAddr_eq, readRoot, readCtx, present, clean, Bool.not_true,
    Bool.false_eq_true, if_false, ctxLookup, Bool.not_eq_true', ← ctxRsvd_eq_false_iff, Bool.not_eq_false]
  split_ifs
  · rfl
  · rfl
  · rcases ctxBranch p m sn flags atype addr q0 q1 o2 with ⟨_ | _, _⟩ <;> rfl

theorem lookupPage_of_rootUnread (fails : Fails o o') :
    lookupPage p m sn sid flags atype addr o = (.error (.rootReadFailed, false), o') := by
  rw [← memRead128_eq_none_iff (m := m) (a := rootEntryAddr p sn.rt sid)] at fails
  simp only [lookupPage, rootEntryAddr_eq, fails]

theorem lookupPage_of_root (read : Reads128 m o (rootEntryAddr p sn.rt sid) r0 r1 o')
    (fault : if r0.getLsbD 0 = false then f = .rootNotPresent else ¬ RootClean p r0 r1 ∧ f = .rootRsvd) :
    lookupPage p m sn sid flags atype addr o = (.error (f, false), o') := by
  rw [← memRead128_eq_some_iff] at read
  simp only [← rootRsvd_eq_false_iff, Bool.not_eq_false] at fault
  simp only [lookupPage, rootEntryAddr_eq, read, Bool.not_eq_true']
  split at fault
  · next absent => rw [if_pos absent, fault]
  · next present =>
    obtain ⟨rsvd, rfl⟩ := fault
    rw [if_neg present, if_pos rsvd]

theorem lookupPage_of_ctxUnread (read : Reads128 m o (rootEntryAddr p sn.rt sid) r0 r1 o1) (present : r0.getLsbD 0 = true)
    (clean : RootClean p r0 r1) (fails : Fails o1 o') :
    lookupPage p m sn sid flags atype addr o = (.error (.ctxReadFailed, false), o') := by
  rw [← memRead128_eq_some_iff] at read
  rw [← rootRsvd_eq_false_iff] at clean
  rw [← memRead128_eq_none_iff (m := m) (a := ctxEntryAddr p r0 sid)] at fails
  simp only [lookupPage, rootEntryAddr_eq, ctxEntryAddr_eq, read, fails, present, clean, Bool.not_true,
    Bool.false_eq_true, if_false]

end

/-- The hit that the tables, as the memory system answers, give for one page, with the domain ID of the context entry. -/
def PageFound (p : Params) (m : Memory) (sn : Snap) (sid : BitVec 16) (flags : Perm) (atype : AddrType) (addr : Word64)
    (o : List MemAnswer) (h : PageHit) (o' : List MemAnswer) : Prop :=
  ∃ q0 q1 o1, ContextOf p m sn.rt sid o q0 q1 o1 ∧ WidthValid sn.cap q1 ∧ h.did = ctxDid p q1 ∧
    CtxMaps p m sn flags atype addr q0 q1 o1 h o'

/-- What the tables say about a result of the page lookup. -/
def PageOutcome (p : Params) (m : Memory) (sn : Snap) (sid : BitVec 16) (flags : Perm) (atype : AddrType) (addr : Word64)
    (o : List MemAnswer) : Except (AtFault × Bool) PageHit × List MemAnswer → Prop
  | (.ok h, o') => PageFound p m sn sid flags atype addr o h o'
  | (.error (f, fpd), o') => PageFaults p m sn sid flags atype addr o f fpd o'

/-- The lookup ends as the tables say, entry by entry. -/
theorem pageOutcome_lookupPage : PageOutcome p m sn sid flags atype addr o (lookupPage p m sn sid flags atype addr o) := by
  rcases readRoot : memRead128 m o (rootEntryAddr p sn.rt sid) with ⟨_ | ⟨r0, r1⟩, o1⟩
  · rw [memRead128_eq_none_iff] at readRoot
    rw [lookupPage_of_rootUnread readRoot]
    exact .rootUnread o o1 readRoot
  rw [memRead128_eq_some_iff] at readRoot
  by_cases usable : r0.getLsbD 0 = true ∧ RootClean p r0 r1
  swap
  · obtain ⟨f, fault⟩ : ∃ f, if r0.getLsbD 0 = false then f = AtFault.rootNotPresent
        else ¬ RootClean p r0 r1 ∧ f = .rootRsvd := by
      split_ifs with absent
      · exact ⟨_, rfl⟩
      · exact ⟨_, fun clean => usable ⟨Bool.eq_true_of_not_eq_false absent, clean⟩, rfl⟩
    rw [lookupPage_of_root readRoot fault]
    exact .root o o1 r0 r1 f readRoot fault
  obtain ⟨present, clean⟩ := usable
  rcases readCtx : memRead128 m o1 (ctxEntryAddr p r0 sid) with ⟨_ | ⟨q0, q1⟩, o2⟩
  · rw [memRead128_eq_none_iff] at readCtx
    rw [lookupPage_of_ctxUnread readRoot present clean readCtx]
    exact .ctxUnread o o1 o2 r0 r1 readRoot present clean readCtx
  rw [memRead128_eq_some_iff] at readCtx
  rw [lookupPage_of_ctx readRoot present clean readCtx]
  rcases look : ctxLookup p m sn flags atype addr q0 q1 o2 with ⟨f | h, o'⟩
  · exact .ctx o o1 o2 o' r0 r1 q0 q1 f readRoot present clean readCtx (ctxLookup_eq_error_iff.mp look)
  · obtain ⟨ctxPresent, ctxClean, found⟩ := ctxLookup_eq_ok_iff.mp look
    exact ⟨q0, q1, o2, ⟨r0, r1, o1, readRoot, present, clean, readCtx, ctxPresent, ctxClean⟩, found⟩

/-- The lookup finds exactly what the tables map, for all parameters. -/
theorem lookupPage_eq_ok_iff : lookupPage p m sn sid flags atype addr o = (.ok h, o') ↔
    PageFound p m sn sid flags atype addr o h o' := by
  constructor
  · intro found
    have := pageOutcome_lookupPage (p := p) (m := m) (sn := sn) (sid := sid) (flags := flags) (atype := atype)
      (addr := addr) (o := o)
    rwa [found] at this
  · rintro ⟨q0, q1, o2, ⟨r0, r1, o1, readRoot, present, clean, readCtx, ctxPresent, ctxClean⟩, found⟩
    rw [lookupPage_of_ctx readRoot present clean readCtx, ctxLookup_eq_ok_iff.mpr ⟨ctxPresent, ctxClean, found⟩]
    rfl

/-- The lookup raises exactly the faults that the tables raise. -/
theorem lookupPage_eq_error_iff {fpd : Bool} : lookupPage p m sn sid flags atype addr o = (.error (f, fpd), o') ↔
    PageFaults p m sn sid flags atype addr o f fpd o' := by
  constructor
  · intro found
    have := pageOutcome_lookupPage (p := p) (m := m) (sn := sn) (sid := sid) (flags := flags) (atype := atype)
      (addr := addr) (o := o)
    rwa [found] at this
  · intro faults
    cases faults with
    | rootUnread _ fails => exact lookupPage_of_rootUnread fails
    | root _ r0 r1 _ read fault => exact lookupPage_of_root read fault
    | ctxUnread o1 _ r0 r1 read present clean fails => exact lookupPage_of_ctxUnread read present clean fails
    | ctx o1 o2 _ r0 r1 q0 q1 _ readRoot present clean readCtx fault =>
      rw [lookupPage_of_ctx readRoot present clean readCtx, ctxLookup_eq_error_iff.mpr fault]
      rfl

/-- With the parameters in range the domain ID of the context entry is the number of R184. -/
theorem pageFound_iff_pageMapped (hp : paramsOk p = true) : PageFound p m sn sid flags atype addr o h o' ↔
    PageMapped p m sn sid flags atype addr o h o' := by
  have domain (q1 : Word64) : h.did = ctxDid p q1 ↔ h.did.toNat = q1.toNat / 256 % 2 ^ didWidth p := by
    rw [← toNat_ctxDid hp, BitVec.toNat_inj]
  simp only [PageFound, domain]
  rfl

end Sys2Proof.Machine
end

section
/-! The ranges of a DMA request (R292 to R298, R320 to R322, R330): the walk of one range under each table mode, its pages one
after another, and the addresses of a bulk call. -/

namespace Sys2Proof.Machine

variable {p : Params} {m : Memory} {sn : Snap} {sid : BitVec 16} {flags : Perm} {atype : AddrType} {addr : Word64}
  {len : Nat} {h : PageHit} {o o' : List MemAnswer}

/-! ### What a hit gives -/

/-- The permissions `perm` hold every permission asked for (R321). -/
def Grants (flags perm : Perm) : Prop := (flags.read = true → perm.read = true) ∧ (flags.write = true → perm.write = true)

theorem grants_permFull (flags : Perm) : Grants flags permFull := ⟨fun _ => rfl, fun _ => rfl⟩

theorem Grants.permInter {a b : Perm} (ha : Grants flags a) (hb : Grants flags b) : Grants flags (permInter a b) :=
  ⟨fun h => Bool.and_eq_true_iff.mpr ⟨ha.1 h, hb.1 h⟩, fun h => Bool.and_eq_true_iff.mpr ⟨ha.2 h, hb.2 h⟩⟩

/-- The checks of the last entry of a path are about the permissions of the whole path (R312). -/
theorem SlPath.grants {cap : Word64} {level leafLevel : Nat} {table e : Word64} {eff perm : Perm}
    (h : SlPath p m cap flags addr level table eff o leafLevel e perm o') : Grants flags perm := by
  induction h with
  | leaf level table e eff eff' o o' read perms ok isLeaf =>
    obtain ⟨write, read, -⟩ := ok
    exact ⟨read, write⟩
  | down level table e eff leafLevel leafEntry leafPerm o o1 o' read ok notLeaf next ih => exact ih

theorem PageFound.grants (found : PageFound p m sn sid flags atype addr o h o') : Grants flags h.perm := by
  obtain ⟨q0, q1, o1, -, -, -, ⟨-, -, -, -, -, -, full⟩ | ⟨-, -, -, -, level, e, path, -⟩⟩ := found
  · rw [full]
    exact grants_permFull flags
  · exact path.grants

/-- A page of the page tables has 4 KiB or a power of 2 times as many bytes (R188). -/
theorem PageFound.psize_eq (found : PageFound p m sn sid flags atype addr o h o') (paged : h.isPt = false) :
    ∃ level, h.psize = 4096 * 2 ^ (9 * level) := by
  obtain ⟨q0, q1, o1, -, -, -, ⟨-, -, -, passThrough, -⟩ | ⟨-, -, -, -, level, e, -, psize, -⟩⟩ := found
  · rw [paged] at passThrough
    cases passThrough
  · exact ⟨level, psize.trans (Nat.pow_add 2 12 _)⟩

theorem PageFound.psize_pos (found : PageFound p m sn sid flags atype addr o h o') (paged : h.isPt = false) :
    0 < h.psize := by
  obtain ⟨level, psize⟩ := found.psize_eq paged
  rw [psize]
  positivity

theorem PageFound.out_of_passThrough (found : PageFound p m sn sid flags atype addr o h o') (passThrough : h.isPt = true) :
    h.out = addr := by
  obtain ⟨q0, q1, o1, -, -, -, ⟨-, -, -, -, out, -⟩ | ⟨-, -, paged, -⟩⟩ := found
  · exact out
  · rw [passThrough] at paged
    cases paged

/-! ### The table modes -/

section
variable (p m sn sid addr len flags atype o)

theorem walkRange_of_disabled (tes : sn.tes = false) : walkRange p m sn sid addr len flags atype o =
    (.ok ⟨addr, len, permFull, 0⟩, o) := by
  rw [walkRange, tes]
  rfl

theorem walkRange_of_enabled (tes : sn.tes = true) : walkRange p m sn sid addr len flags atype o =
    if rtTtm sn.rt = 0b00 then legacyRange p m sn sid addr len flags atype o
    else if rtTtm sn.rt = 0b01 then (.error (pageFault sid flags atype addr (.ttmScalable, false)), o)
    else if rtTtm sn.rt = 0b10 then (.error (pageFault sid flags atype addr (.ttmReserved, false)), o)
    else if sn.ecap.getLsbD 50 then (.error (.abort []), o)
    else (.error (pageFault sid flags atype addr (.ttmAbortUnsupported, false)), o) := by
  rw [walkRange, tes]
  rfl

theorem walkRange_of_legacy (tes : sn.tes = true) (ttm : rtTtm sn.rt = 0b00) :
    walkRange p m sn sid addr len flags atype o = legacyRange p m sn sid addr len flags atype o := by
  rw [walkRange_of_enabled _ _ _ _ _ _ _ _ _ tes, if_pos ttm]

theorem walkRange_of_scalable (tes : sn.tes = true) (ttm : rtTtm sn.rt = 0b01) :
    walkRange p m sn sid addr len flags atype o = (.error (pageFault sid flags atype addr (.ttmScalable, false)), o) := by
  rw [walkRange_of_enabled _ _ _ _ _ _ _ _ _ tes, ttm]
  rfl

theorem walkRange_of_reserved (tes : sn.tes = true) (ttm : rtTtm sn.rt = 0b10) :
    walkRange p m sn sid addr len flags atype o = (.error (pageFault sid flags atype addr (.ttmReserved, false)), o) := by
  rw [walkRange_of_enabled _ _ _ _ _ _ _ _ _ tes, ttm]
  rfl

theorem walkRange_of_abort (tes : sn.tes = true) (ttm : rtTtm sn.rt = 0b11) :
    walkRange p m sn sid addr len flags atype o =
      if sn.ecap.getLsbD 50 then (.error (.abort []), o)
      else (.error (pageFault sid flags atype addr (.ttmAbortUnsupported, false)), o) := by
  rw [walkRange_of_enabled _ _ _ _ _ _ _ _ _ tes, ttm]
  rfl

end

/-! ### The first page and the further pages of a range -/

theorem legacyRange_of_error {e : AtFault × Bool} (look : lookupPage p m sn sid flags atype addr o = (.error e, o')) :
    legacyRange p m sn sid addr len flags atype o = (.error (pageFault sid flags atype addr e), o') := by
  rw [legacyRange, look]

theorem legacyRange_of_passThrough (look : lookupPage p m sn sid flags atype addr o = (.ok h, o'))
    (passThrough : h.isPt = true) :
    legacyRange p m sn sid addr len flags atype o = (.ok ⟨addr, len, permFull, h.did⟩, o') := by
  simp only [legacyRange, look, passThrough, if_true]

theorem legacyRange_of_paged (look : lookupPage p m sn sid flags atype addr o = (.ok h, o')) (paged : h.isPt = false) :
    legacyRange p m sn sid addr len flags atype o = morePages p m sn sid flags atype addr h.out len h.did len
      (min len (h.psize - addr.toNat % h.psize)) h.perm o' := by
  simp only [legacyRange, look, paged, Bool.false_eq_true, if_false]

section
variable {base : Word64} {did : BitVec 16} {fuel d : Nat} {perm : Perm}

/-- A range is at its end when all its bytes are translated. -/
theorem morePages_of_le (all : len ≤ d) :
    morePages p m sn sid flags atype addr base len did fuel d perm o = (.ok ⟨base, d, perm, did⟩, o) := by
  cases fuel with
  | zero => rfl
  | succ fuel => rw [morePages, if_pos all]

theorem morePages_of_error {e : AtFault × Bool} (more : d < len)
    (look : lookupPage p m sn sid flags atype (addr + BitVec.ofNat 64 d) o = (.error e, o')) :
    morePages p m sn sid flags atype addr base len did (fuel + 1) d perm o =
      (.error (pageFault sid flags atype (addr + BitVec.ofNat 64 d) e), o') := by
  simp only [morePages, if_neg (Nat.not_le.mpr more), look]

/-- A page that is pass-through or not contiguous ends the range before it (R320). -/
theorem morePages_of_stop (more : d < len)
    (look : lookupPage p m sn sid flags atype (addr + BitVec.ofNat 64 d) o = (.ok h, o'))
    (stop : h.isPt = true ∨ h.out ≠ base + BitVec.ofNat 64 d) :
    morePages p m sn sid flags atype addr base len did (fuel + 1) d perm o = (.ok ⟨base, d, perm, did⟩, o') := by
  simp only [morePages, if_neg (Nat.not_le.mpr more), look, if_pos stop]

theorem morePages_of_page (more : d < len) (look : lookupPage p m sn sid flags atype (addr + BitVec.ofNat 64 d) o = (.ok h, o'))
    (paged : h.isPt = false) (contiguous : h.out = base + BitVec.ofNat 64 d) :
    morePages p m sn sid flags atype addr base len did (fuel + 1) d perm o =
      morePages p m sn sid flags atype addr base len did fuel (d + min (len - d) h.psize) (permInter perm h.perm) o' := by
  have goesOn : ¬ (h.isPt = true ∨ h.out ≠ base + BitVec.ofNat 64 d) := by simp [paged, contiguous]
  simp only [morePages, if_neg (Nat.not_le.mpr more), look, if_neg goesOn]

/-- The loop follows the contiguous pages, and its fuel stays enough for the bytes left. -/
theorem PagesTo.morePages_eq {d' : Nat} {perm' : Perm} (hp : paramsOk p = true)
    (h : PagesTo p m sn sid flags atype addr base len d perm o d' perm' o') (inside : d ≤ len) (enough : len ≤ d + fuel) :
    d' ≤ len ∧ ∃ fuel', len ≤ d' + fuel' ∧ morePages p m sn sid flags atype addr base len did fuel d perm o =
      morePages p m sn sid flags atype addr base len did fuel' d' perm' o' := by
  induction h generalizing fuel with
  | stay d perm o => exact ⟨inside, fuel, enough, rfl⟩
  | page d perm o h o1 d' perm' o' more mapped paged contiguous rest ih =>
    have found := (pageFound_iff_pageMapped hp).mpr mapped
    have progress := found.psize_pos paged
    obtain ⟨fuel, rfl⟩ : ∃ k, fuel = k + 1 := ⟨fuel - 1, by omega⟩
    rw [morePages_of_page more (lookupPage_eq_ok_iff.mpr found) paged contiguous]
    exact ih (by omega) (by omega)

end

/-! ### The bounds of a translated range -/

/-- A translated range is not empty, is no longer than asked for and grants what was asked for (R290, R321, R322). -/
structure RangeOk (flags : Perm) (len : Nat) (r : Range) : Prop where
  nonempty : 1 ≤ r.clen
  inside : r.clen ≤ len
  grants : Grants flags r.perm

theorem rangeOk_morePages {base : Word64} {did : BitVec 16} {fuel d : Nat} {perm : Perm} {r : Range}
    (walk : morePages p m sn sid flags atype addr base len did fuel d perm o = (.ok r, o'))
    (sofar : RangeOk flags len ⟨base, d, perm, did⟩) : RangeOk flags len r := by
  induction fuel generalizing d perm o with
  | zero =>
    cases walk
    exact sofar
  | succ fuel ih =>
    by_cases all : len ≤ d
    · rw [morePages_of_le all] at walk
      cases walk
      exact sofar
    · rcases look : lookupPage p m sn sid flags atype (addr + BitVec.ofNat 64 d) o with ⟨e | h, o1⟩
      · rw [morePages_of_error (by omega) look] at walk
        cases walk
      · by_cases stop : h.isPt = true ∨ h.out ≠ base + BitVec.ofNat 64 d
        · rw [morePages_of_stop (by omega) look stop] at walk
          cases walk
          exact sofar
        · obtain ⟨paged, contiguous⟩ := not_or.mp stop
          rw [morePages_of_page (by omega) look (Bool.eq_false_of_not_eq_true paged) (not_not.mp contiguous)] at walk
          have found := lookupPage_eq_ok_iff.mp look
          obtain ⟨nonempty, inside, grants⟩ := sofar
          exact ih walk ⟨by dsimp only at *; omega, by dsimp only at *; omega, grants.permInter found.grants⟩

theorem rangeOk_legacyRange {r : Range} (some_bytes : 0 < len)
    (walk : legacyRange p m sn sid addr len flags atype o = (.ok r, o')) : RangeOk flags len r := by
  rcases look : lookupPage p m sn sid flags atype addr o with ⟨e | h, o1⟩
  · rw [legacyRange_of_error look] at walk
    cases walk
  · cases passThrough : h.isPt with
    | true =>
      rw [legacyRange_of_passThrough look passThrough] at walk
      cases walk
      exact ⟨some_bytes, le_rfl, grants_permFull flags⟩
    | false =>
      rw [legacyRange_of_paged look passThrough] at walk
      have found := lookupPage_eq_ok_iff.mp look
      have offset := Nat.mod_lt addr.toNat (found.psize_pos passThrough)
      exact rangeOk_morePages walk ⟨by dsimp only; omega, Nat.min_le_left _ _, found.grants⟩

/-- A translation that gives a range gives one in its bounds, in every table mode. -/
theorem rangeOk_walkRange {r : Range} (some_bytes : 0 < len)
    (walk : walkRange p m sn sid addr len flags atype o = (.ok r, o')) : RangeOk flags len r := by
  cases tes : sn.tes with
  | false =>
    rw [walkRange_of_disabled _ _ _ _ _ _ _ _ _ tes] at walk
    cases walk
    exact ⟨some_bytes, le_rfl, grants_permFull flags⟩
  | true =>
    rw [walkRange_of_enabled _ _ _ _ _ _ _ _ _ tes] at walk
    split_ifs at walk
    · exact rangeOk_legacyRange some_bytes walk
    all_goals cases walk

/-! ### The addresses of a bulk call -/

/-- An address of a bulk call is page-aligned, so that its 4 KiB lie in one page: its output is the page lookup's. -/
theorem walkRange_of_aligned (tes : sn.tes = true) (ttm : rtTtm sn.rt = 0b00) (aligned : addr.toNat % 4096 = 0)
    (found : PageFound p m sn sid flags atype addr o h o') :
    ∃ r, walkRange p m sn sid addr 4096 flags atype o = (.ok r, o') ∧ r.base = h.out := by
  have look := lookupPage_eq_ok_iff.mpr found
  rw [walkRange_of_legacy _ _ _ _ _ _ _ _ _ tes ttm]
  cases passThrough : h.isPt with
  | true => exact ⟨_, legacyRange_of_passThrough look passThrough, (found.out_of_passThrough passThrough).symm⟩
  | false =>
    obtain ⟨level, psize⟩ := found.psize_eq passThrough
    have whole : 4096 ≤ h.psize - addr.toNat % h.psize := by
      obtain ⟨k, hk⟩ : 4096 ∣ addr.toNat := Nat.dvd_of_mod_eq_zero aligned
      have := Nat.mod_lt k (Nat.two_pow_pos (9 * level))
      rw [hk, psize, Nat.mul_mod_mul_left]
      omega
    rw [legacyRange_of_paged look passThrough, morePages_of_le (le_min le_rfl whole)]
    exact ⟨_, rfl, rfl⟩

/-- The addresses that are mapped one after another are walked one after another. -/
theorem BulkMapped.walkBulk_eq {addrs outs : List Word64} (hp : paramsOk p = true) (tes : sn.tes = true)
    (ttm : rtTtm sn.rt = 0b00) (h : BulkMapped p m sn sid flags addrs o outs o') (rest before : List Word64)
    (aligned : ∀ a ∈ addrs, a.toNat % 4096 = 0) :
    walkBulk p m sn sid flags (addrs ++ rest) before o = walkBulk p m sn sid flags rest (before ++ outs) o' := by
  induction h generalizing before with
  | nil o => rw [List.nil_append, List.append_nil]
  | cons a tail o h o1 outs o' mapped next ih =>
    obtain ⟨r, walk, base⟩ := walkRange_of_aligned tes ttm (aligned a List.mem_cons_self)
      ((pageFound_iff_pageMapped hp).mpr mapped)
    rw [List.cons_append, walkBulk_cons_ok walk, base, ih _ fun a ha => aligned a (List.mem_cons_of_mem _ ha),
      List.append_assoc, List.singleton_append]

/-- With translation disabled a bulk call gives its addresses back (R292). -/
theorem walkBulk_of_disabled (tes : sn.tes = false) (addrs before : List Word64) (o : List MemAnswer) :
    walkBulk p m sn sid flags addrs before o = (.done (.bulk (before ++ addrs)), o) := by
  induction addrs generalizing before with
  | nil => rw [walkBulk, List.append_nil]
  | cons a rest ih =>
    rw [walkBulk_cons_ok (walkRange_of_disabled _ _ _ _ _ _ _ _ _ tes), ih, List.append_assoc, List.singleton_append]

end Sys2Proof.Machine
end

section
/-! The DMA and interrupt requests as operations (R156, R290, R330): what a request does given how its walk ends, what it returns,
and what the record step leaves alone (R316, R323, R373). -/

namespace Sys2Proof.Machine

/-! ### The record step -/

/-- What a call returns to its caller, given how its walk ended (R17, R330). -/
def Walked.result : Walked → Result
  | .done r => r
  | .abort earlier => .fail earlier
  | .atFault _ _ _ earlier => .fail earlier
  | .irFault _ _ _ _ => .fail []

theorem replies_recordWalked (s : State) (req : Request) (w : Walked) :
    (recordWalked s req w).replies = s.replies ++ [⟨some req.instr, w.result⟩] := by
  cases w with
  | done r => rfl
  | abort earlier => rfl
  | atFault f r fpd earlier => exact congrArg (· ++ _) (sameRest_recordAtFault s f r fpd).replies
  | irFault f sid index fpd => exact congrArg (· ++ _) (sameRest_recordIrFault s f sid index fpd).replies

theorem recordWalked_atFault (s : State) (req : Request) (f : AtFault) (r : FaultReq) (fpd : Bool) (earlier : List Word64) :
    recordWalked s req (.atFault f r fpd earlier) =
      { recordAtFault s f r fpd with replies := s.replies ++ [⟨some req.instr, .fail earlier⟩] } := by
  rw [← (sameRest_recordAtFault s f r fpd).replies]
  rfl

/-- A walk whose result is no failure changes nothing but the replies. -/
theorem recordWalked_of_ok (s : State) (req : Request) {w : Walked} (ok : ∀ earlier, w.result ≠ .fail earlier) :
    recordWalked s req w = s.reply ⟨some req.instr, w.result⟩ := by
  cases w with
  | done r => rfl
  | abort earlier => exact absurd rfl (ok earlier)
  | atFault f r fpd earlier => exact absurd rfl (ok earlier)
  | irFault f sid index fpd => exact absurd rfl (ok [])

/-- A state that a reply is added to, after changes to registers, diagnostic code and outputs only. -/
theorem SameRest.reply_eq {s t : State} (h : SameRest s t) (x : Reply) : t.reply x =
    { s with regs := t.regs, diag := t.diag, outputs := t.outputs, replies := t.replies ++ [x] } := by
  cases h
  cases t
  simp_all [State.reply]

theorem recordWalked_frame (s : State) (req : Request) (w : Walked) : recordWalked s req w =
    { s with
      regs := (recordWalked s req w).regs, diag := (recordWalked s req w).diag,
      outputs := (recordWalked s req w).outputs, replies := (recordWalked s req w).replies } := by
  rcases recordWalked_cases s req w with ⟨_, -, h⟩ | ⟨_, -, h⟩ | ⟨f, r, fpd, _, -, h⟩ | ⟨f, sid, index, fpd, -, h⟩ <;> rw [h]
  · rfl
  · rfl
  · exact (sameRest_recordAtFault s f r fpd).reply_eq _
  · exact (sameRest_recordIrFault s f sid index fpd).reply_eq _

/-! ### The registers of a fault -/

/-- Changes inside some spans are changes inside spans that cover them. -/
theorem OnlyBits.cover {r r' : RegFile} {a b : List (Nat × Nat)} (h : OnlyBits r r' a)
    (covered : ∀ x ∈ a, ∃ y ∈ b, y.1 ≤ x.1 ∧ x.1 + x.2 ≤ y.1 + y.2) : OnlyBits r r' b := by
  refine ⟨h.1, fun k outside => h.2 k fun x hx => ?_⟩
  obtain ⟨y, hy, low, high⟩ := covered x hx
  have := outside y hy
  omega

theorem State.onlyBits_setReg64 (s : State) (x : Reg) (v : Word64) (h : x.size = 8) :
    OnlyBits s.regs (s.setReg64 x v).regs [x.span] := onlyBits_writeReg64 _ _ _ h

theorem State.onlyBits_setReg32 (s : State) (x : Reg) (v : Word32) (h : x.size = 4) :
    OnlyBits s.regs (s.setReg32 x v).regs [x.span] := onlyBits_writeReg32 _ _ _ h

theorem State.onlyBits_setFlag (s : State) (f : Flag) (b : Bool) : OnlyBits s.regs (s.setFlag f b).regs [f.span] :=
  Machine.onlyBits_setFlag _ _ _

/-- The registers that a fault of a request may change (R485, R492). -/
def faultSpans : List (Nat × Nat) := [Reg.fsts.span, Reg.frcdLo.span, Reg.frcdHi.span, Flag.feIp.span]

/-- What R485 writes to a free slot before it raises the fault event. -/
def storeFault (s : State) (hi lo : Word64) : State :=
  let s1 := ((s.setReg64 .frcdLo lo).setReg64 .frcdHi (hi ||| 1#64 <<< 63)).setFlag .ppf true
  s1.setReg32 .fsts (setField (s1.reg32 .fsts) 8 0#8)

theorem onlyBits_storeFault (s : State) (hi lo : Word64) : OnlyBits s.regs (storeFault s hi lo).regs faultSpans := by
  unfold storeFault
  extract_lets s1
  have recordLo := (s.onlyBits_setReg64 .frcdLo lo rfl).cover (b := faultSpans) (by decide)
  have recordHi := ((s.setReg64 .frcdLo lo).onlyBits_setReg64 .frcdHi (hi ||| 1#64 <<< 63) rfl).cover (b := faultSpans)
    (by decide)
  have pending : OnlyBits _ s1.regs faultSpans := (State.onlyBits_setFlag _ .ppf true).cover (by decide)
  have index := (s1.onlyBits_setReg32 .fsts (setField (s1.reg32 .fsts) 8 0#8) rfl).cover (b := faultSpans) (by decide)
  exact ((recordLo.trans recordHi).trans pending).trans index

theorem onlyBits_recordPrimaryFault (s : State) (hi lo : Word64) :
    OnlyBits s.regs (recordPrimaryFault s hi lo).regs faultSpans := by
  rcases recordPrimaryFault_cases s hi lo with ⟨-, h⟩ | ⟨-, h⟩ <;> rw [h]
  · exact (s.onlyBits_setFlag .pfo true).cover (by decide)
  · exact (onlyBits_storeFault s hi lo).trans ((onlyBits_raiseEvent _ .fault).cover (by decide))

theorem onlyBits_recordAtFault (s : State) (f : AtFault) (r : FaultReq) (fpd : Bool) :
    OnlyBits s.regs (recordAtFault s f r fpd).regs faultSpans := by
  unfold recordAtFault
  split
  · exact .refl _ _
  · exact onlyBits_recordPrimaryFault (s.withDiag (.at f)) _ _

theorem onlyBits_recordIrFault (s : State) (f : IrFault) (sid : BitVec 16) (index : Option Nat) (fpd : Bool) :
    OnlyBits s.regs (recordIrFault s f sid index fpd).regs faultSpans := by
  unfold recordIrFault
  split
  · exact .refl _ _
  · exact onlyBits_recordPrimaryFault (s.withDiag (.ir f)) _ _

theorem onlyBits_recordWalked (s : State) (req : Request) (w : Walked) :
    OnlyBits s.regs (recordWalked s req w).regs faultSpans := by
  cases w with
  | done r => exact .refl _ _
  | abort earlier => exact .refl _ _
  | atFault f r fpd earlier => exact onlyBits_recordAtFault s f r fpd
  | irFault f sid index fpd => exact onlyBits_recordIrFault s f sid index fpd

/-! ### Preconditions -/

theorem translatePre_iff (addr len : Word64) (flags : Perm) : translatePre addr len flags = true ↔
    0 < len.toNat ∧ addr.toNat + len.toNat ≤ 2 ^ 64 ∧ (flags.read = true ∨ flags.write = true) := by
  simp only [translatePre, flagsNonEmpty, Bool.and_eq_true, Bool.or_eq_true, decide_eq_true_eq, and_assoc]

theorem bulkPre_iff (flags : Perm) (addrs : List Word64) : bulkPre flags addrs = true ↔
    addrs ≠ [] ∧ (∀ a ∈ addrs, a.toNat % 4096 = 0) ∧ (flags.read = true ∨ flags.write = true) := by
  simp only [bulkPre, flagsNonEmpty, Bool.and_eq_true, Bool.or_eq_true, Bool.not_eq_true', List.isEmpty_eq_false_iff,
    List.all_eq_true, beq_iff_eq, and_assoc]

/-! ### A request run to its end -/

section
variable {s : State} {i : Instr} {r : Request} (isCall : requestOf i = some r)
include isCall

/-- An operation that is taken is a request run to its end. -/
theorem exec_request_next {t : State} (taken : exec i s = .next t) : t = runRequest s r := by
  rw [(exec_requestOf isCall s).2] at taken
  split at taken <;> cases taken
  rfl

theorem exec_request_refused (broken : ¬ r.pre = true) : exec i s = .refused .precondition := by
  rw [(exec_requestOf isCall s).2, if_neg broken]

theorem exec_request (pre : r.pre = true) : exec i s = .next (runRequest s r) := by
  rw [(exec_requestOf isCall s).2, if_pos pre]

/-- A request is answered with the result of its walk. -/
theorem replies_runRequest : (runRequest s r).replies =
    s.replies ++ [⟨some i, (walkRequest s.params s.mem (takeSnap s) s.oracle r).1.result⟩] := by
  rw [← (exec_requestOf isCall s).1]
  exact replies_recordWalked _ _ _

variable (pre : r.pre = true) {o' : List MemAnswer}
include pre

theorem exec_request_done {res : Result}
    (walk : walkRequest s.params s.mem (takeSnap s) s.oracle r = (.done res, o')) :
    exec i s = .next { s with oracle := o', replies := s.replies ++ [⟨some i, res⟩] } := by
  rw [exec_request isCall pre, runRequest, walk, (exec_requestOf isCall s).1.symm]
  rfl

theorem exec_request_abort {earlier : List Word64}
    (walk : walkRequest s.params s.mem (takeSnap s) s.oracle r = (.abort earlier, o')) :
    exec i s = .next { s with oracle := o', replies := s.replies ++ [⟨some i, .fail earlier⟩] } := by
  rw [exec_request isCall pre, runRequest, walk, (exec_requestOf isCall s).1.symm]
  rfl

theorem exec_request_atFault {f : AtFault} {q : FaultReq} {fpd : Bool} {earlier : List Word64}
    (walk : walkRequest s.params s.mem (takeSnap s) s.oracle r = (.atFault f q fpd earlier, o')) :
    exec i s = .next { recordAtFault { s with oracle := o' } f q fpd with
      replies := s.replies ++ [⟨some i, .fail earlier⟩] } := by
  rw [exec_request isCall pre, runRequest, walk, (exec_requestOf isCall s).1.symm]
  exact congrArg _ (recordWalked_atFault _ _ _ _ _ _)

end

/-- What a request may change (R316, R323, R373). -/
theorem runRequest_frame (s : State) (r : Request) : runRequest s r =
    { s with
      regs := (runRequest s r).regs, diag := (runRequest s r).diag, oracle := (runRequest s r).oracle,
      outputs := (runRequest s r).outputs, replies := (runRequest s r).replies } := by
  generalize walked : walkRequest s.params s.mem (takeSnap s) s.oracle r = w
  have oracle : (runRequest s r).oracle = w.2 := walked ▸ (sameWalks_recordWalked _ _ _).oracle
  rw [oracle, ← walked]
  exact recordWalked_frame _ _ _

/-! ### The walks of the two DMA calls -/

section
variable {p : Params} {m : Memory} {sn : Snap} {sid : BitVec 16} {flags : Perm} {atype : AddrType} {addr len : Word64}
  {o o' : List MemAnswer} {w : Walked}

theorem walkTranslate_of_ok {r : Range} (walk : walkRange p m sn sid addr len.toNat flags atype o = (.ok r, o')) :
    walkTranslate p m sn sid addr len flags atype o = (.done (.translated r.base r.clen r.perm r.did), o') := by
  rw [walkTranslate, walk]

theorem walkTranslate_of_error (walk : walkRange p m sn sid addr len.toNat flags atype o = (.error w, o')) :
    walkTranslate p m sn sid addr len flags atype o = (w, o') := by
  rw [walkTranslate, walk]

/-- A failing range carries no outputs. -/
theorem result_of_walkRange_error {n : Nat} (walk : walkRange p m sn sid addr n flags atype o = (.error w, o')) :
    w.result = .fail [] ∧ ∀ outs, (w.withEarlier outs).result = .fail outs := by
  rcases walkRange_error walk with rfl | ⟨a, e, rfl⟩ <;> exact ⟨rfl, fun _ => rfl⟩

/-- A bulk call that fails at its first address fails as that range does. -/
theorem walkBulk_of_first_error {a : Word64} (walk : walkRange p m sn sid a 4096 flags .untranslated o = (.error w, o'))
    (rest : List Word64) : walkBulk p m sn sid flags (a :: rest) [] o = (w, o') := by
  have none_yet : earlierOutputs p [] = [] := ite_self _
  rw [walkBulk_cons_error walk, none_yet]
  rcases walkRange_error walk with rfl | ⟨a, e, rfl⟩ <;> rfl

/-- What DMA_TRANSLATE returns: a range in its bounds, or a failure (R290, R321, R322). -/
theorem result_walkTranslate (some_bytes : 0 < len.toNat) :
    (walkTranslate p m sn sid addr len flags atype o).1.result = .fail [] ∨
      ∃ r, RangeOk flags len.toNat r ∧
        (walkTranslate p m sn sid addr len flags atype o).1.result = .translated r.base r.clen r.perm r.did := by
  rcases walk : walkRange p m sn sid addr len.toNat flags atype o with ⟨w | r, o'⟩
  · rw [walkTranslate_of_error walk]
    exact .inl (result_of_walkRange_error walk).1
  · rw [walkTranslate_of_ok walk]
    exact .inr ⟨r, rangeOk_walkRange some_bytes walk, rfl⟩

/-- What DMA_BULK returns after the outputs `before`: one output for each address, or a failure after fewer (R330). -/
theorem result_walkBulk (addrs before : List Word64) (o : List MemAnswer) :
    (∃ outs, (walkBulk p m sn sid flags addrs before o).1.result = .fail (earlierOutputs p outs) ∧
        outs.length < before.length + addrs.length) ∨
      ∃ outs, (walkBulk p m sn sid flags addrs before o).1.result = .bulk outs ∧
        outs.length = before.length + addrs.length := by
  induction addrs generalizing before o with
  | nil => exact .inr ⟨before, rfl, rfl⟩
  | cons a rest ih =>
    rcases walk : walkRange p m sn sid a 4096 flags .untranslated o with ⟨w | r, o'⟩
    · rw [walkBulk_cons_error walk]
      exact .inl ⟨before, (result_of_walkRange_error walk).2 _, by rw [List.length_cons]; omega⟩
    · have length : (before ++ [r.base]).length + rest.length = before.length + (a :: rest).length := by
        simp only [List.length_append, List.length_cons, List.length_nil]
        omega
      rw [walkBulk_cons_ok walk, ← length]
      exact ih _ _

end

/-! ### The two DMA calls -/

section
variable {s : State} {sid : BitVec 16} {flags : Perm} {atype : AddrType} {addr len : Word64} {addrs : List Word64}
  {o' : List MemAnswer}

theorem exec_dmaTranslate_ok {r : Range} (pre : translatePre addr len flags = true)
    (walk : walkRange s.params s.mem (takeSnap s) sid addr len.toNat flags atype s.oracle = (.ok r, o')) :
    exec (.dmaTranslate sid addr len flags atype) s = .next { s with
      oracle := o'
      replies := s.replies ++
        [⟨some (.dmaTranslate sid addr len flags atype), .translated r.base r.clen r.perm r.did⟩] } :=
  exec_request_done (r := .translate sid addr len flags atype) rfl pre (walkTranslate_of_ok walk)

/-- A translation fails with the fault of a page, which is recorded with that page's address (R322). -/
theorem exec_dmaTranslate_fault {a : Word64} {e : AtFault × Bool} (pre : translatePre addr len flags = true)
    (walk : walkRange s.params s.mem (takeSnap s) sid addr len.toNat flags atype s.oracle =
      (.error (pageFault sid flags atype a e), o')) :
    exec (.dmaTranslate sid addr len flags atype) s = .next
      { recordAtFault { s with oracle := o' } e.1 ⟨sid, a, atype, !flags.write⟩ e.2 with
        replies := s.replies ++ [⟨some (.dmaTranslate sid addr len flags atype), .fail []⟩] } :=
  exec_request_atFault (r := .translate sid addr len flags atype) rfl pre (walkTranslate_of_error walk)

theorem exec_dmaBulk_done {res : Result} (pre : bulkPre flags addrs = true)
    (walk : walkBulk s.params s.mem (takeSnap s) sid flags addrs [] s.oracle = (.done res, o')) :
    exec (.dmaBulk sid flags addrs) s = .next { s with
      oracle := o'
      replies := s.replies ++ [⟨some (.dmaBulk sid flags addrs), res⟩] } :=
  exec_request_done (r := .bulk sid flags addrs) rfl pre walk

theorem exec_dmaBulk_fault {a : Word64} {e : AtFault × Bool} {earlier : List Word64} (pre : bulkPre flags addrs = true)
    (walk : walkBulk s.params s.mem (takeSnap s) sid flags addrs [] s.oracle =
      ((pageFault sid flags .untranslated a e).withEarlier earlier, o')) :
    exec (.dmaBulk sid flags addrs) s = .next
      { recordAtFault { s with oracle := o' } e.1 ⟨sid, a, .untranslated, !flags.write⟩ e.2 with
        replies := s.replies ++ [⟨some (.dmaBulk sid flags addrs), .fail earlier⟩] } :=
  exec_request_atFault (r := .bulk sid flags addrs) rfl pre walk

end

end Sys2Proof.Machine
end

section
/-! The statements of the DMA-remapping family. -/

open Sys2Proof Sys2Proof.Machine

namespace Sys2Proof.DmaRemapping

/-- Settles O30: the lookup finds what the tables map for all parameters; the ranges of R11 are needed for the domain ID. -/
theorem lookupIsPageMapped : Obligations.LookupIsPageMapped := by
  intro p m sn sid flags atype addr o h o' hp
  exact lookupPage_eq_ok_iff.trans (pageFound_iff_pageMapped hp)

/-- Settles O29: the fault of the first page is the fault of the range. -/
theorem entryFaults : Obligations.EntryFaults := by
  refine ⟨fun p m sn sid flags atype addr o o' f fpd => lookupPage_eq_error_iff, ?_⟩
  intro s sid addr len flags atype f fpd o' pre tes ttm faults
  have legacy := walkRange_of_legacy s.params s.mem (takeSnap s) sid flags atype addr len.toNat s.oracle tes ttm
  exact exec_dmaTranslate_fault (e := (f, fpd)) pre (legacy.trans (legacyRange_of_error (lookupPage_eq_error_iff.mpr faults)))

/-- Settles O31: the loop of a translation follows the pages up to the one that ends it, and a bulk call its addresses. -/
theorem pagesTranslated : Obligations.PagesTranslated := by
  intro s sid flags hp tes ttm
  constructor
  · intro addr len atype h o pre mapped answered
    have legacy := walkRange_of_legacy s.params s.mem (takeSnap s) sid flags atype addr len.toNat s.oracle tes ttm
    have look := lookupPage_eq_ok_iff.mpr ((pageFound_iff_pageMapped hp).mpr mapped)
    refine ⟨fun passThrough => ?_, fun paged d perm o1 pages => ?_⟩
    · exact exec_dmaTranslate_ok pre (legacy.trans (legacyRange_of_passThrough look passThrough))
    · obtain ⟨inside, fuel, enough, loop⟩ := pages.morePages_eq (did := h.did) (fuel := len.toNat) hp (Nat.min_le_left _ _)
        (Nat.le_add_left _ _)
      have range := (legacy.trans (legacyRange_of_paged look paged)).trans loop
      refine ⟨fun all => ?_, fun more h2 o2 next stop => ?_, fun more f fpd o2 faults => ?_⟩
      · obtain rfl : d = len.toNat := le_antisymm inside all
        exact exec_dmaTranslate_ok pre (range.trans (morePages_of_le le_rfl))
      · obtain ⟨fuel, rfl⟩ : ∃ k, fuel = k + 1 := ⟨fuel - 1, by omega⟩
        have look2 := lookupPage_eq_ok_iff.mpr ((pageFound_iff_pageMapped hp).mpr next)
        exact exec_dmaTranslate_ok pre (range.trans (morePages_of_stop more look2 stop))
      · obtain ⟨fuel, rfl⟩ : ∃ k, fuel = k + 1 := ⟨fuel - 1, by omega⟩
        exact exec_dmaTranslate_fault (e := (f, fpd)) pre (range.trans (morePages_of_error more (lookupPage_eq_error_iff.mpr faults)))
  · intro addrs outs o mapped
    refine ⟨fun pre => ?_, fun a rest f fpd o1 pre faults => ?_⟩
    · obtain ⟨-, aligned, -⟩ := (bulkPre_iff _ _).mp pre
      have walk := mapped.walkBulk_eq (sn := takeSnap s) hp tes ttm [] [] aligned
      rw [List.append_nil] at walk
      exact exec_dmaBulk_done pre walk
    · obtain ⟨-, aligned, -⟩ := (bulkPre_iff _ _).mp pre
      have walk := mapped.walkBulk_eq (sn := takeSnap s) hp tes ttm (a :: rest) [] fun x hx => aligned x (List.mem_append_left _ hx)
      have legacy := walkRange_of_legacy s.params s.mem (takeSnap s) sid flags .untranslated a 4096 o tes ttm
      have fault := legacy.trans (legacyRange_of_error (lookupPage_eq_error_iff.mpr faults))
      exact exec_dmaBulk_fault (e := (f, fpd)) pre (walk.trans (walkBulk_cons_error fault rest outs))

/-- Settles O34: a request records and answers, and a result that is no failure comes with no record. -/
theorem requestsFrame : Obligations.RequestsFrame := by
  intro s t i r isCall taken
  obtain rfl := exec_request_next isCall taken
  obtain rfl := (exec_requestOf isCall s).1
  refine ⟨runRequest_frame s r, onlyBits_recordWalked _ _ _, _, replies_runRequest isCall, fun ok => ?_⟩
  rw [runRequest, recordWalked_of_ok _ _ ok]
  rfl

/-- Settles O27: what the walks of the two calls can return. -/
theorem dmaCompletes : Obligations.DmaCompletes := by
  intro s sid flags some_flag
  constructor
  · intro addr len atype some_bytes inside
    have isCall : requestOf (.dmaTranslate sid addr len flags atype) = some (.translate sid addr len flags atype) := rfl
    refine ⟨_, _, exec_request isCall ((translatePre_iff _ _ _).mpr ⟨some_bytes, inside, some_flag⟩),
      replies_runRequest isCall, ?_⟩
    rcases result_walkTranslate some_bytes with failed | ⟨r, ⟨nonempty, le, grants⟩, result⟩
    · exact .inl failed
    · exact .inr ⟨_, _, _, _, result, nonempty, le, grants⟩
  · intro addrs some_addr aligned
    have isCall : requestOf (.dmaBulk sid flags addrs) = some (.bulk sid flags addrs) := rfl
    refine ⟨_, _, exec_request isCall ((bulkPre_iff _ _).mpr ⟨some_addr, aligned, some_flag⟩),
      replies_runRequest isCall, ?_⟩
    rcases result_walkBulk addrs [] s.oracle with ⟨outs, failed, fewer⟩ | ⟨outs, result, length⟩
    · rw [List.length_nil, Nat.zero_add] at fewer
      refine .inl ⟨_, failed, ?_, fun r330 => by rw [earlierOutputs, r330]; rfl⟩
      unfold earlierOutputs
      split
      · exact fewer
      · exact List.length_pos_iff.mpr some_addr
    · exact .inr ⟨outs, result, by simpa using length⟩

/-- Settles O25: every range is its input range, walked without a read. -/
theorem disabledTranslation : Obligations.DisabledTranslation := by
  intro s tes
  refine ⟨fun sid addr len flags atype pre => ?_, fun sid flags addrs pre => ?_⟩
  · exact exec_dmaTranslate_ok pre (walkRange_of_disabled s.params s.mem (takeSnap s) _ _ _ _ _ _ tes)
  · exact exec_dmaBulk_done pre (walkBulk_of_disabled tes addrs [] s.oracle)

/-- Settles O26: each of the three ways to break a precondition contradicts a part of it. -/
theorem dmaPreconditions : Obligations.DmaPreconditions := by
  intro s
  refine ⟨fun sid addr len flags atype broken => ?_, fun sid flags addrs broken => ?_⟩
  · refine exec_request_refused (r := .translate sid addr len flags atype) rfl fun pre => ?_
    obtain ⟨some_bytes, inside, some_flag⟩ := (translatePre_iff _ _ _).mp pre
    rcases broken with none_asked | outside | ⟨read, write⟩
    · omega
    · omega
    · simp [read, write] at some_flag
  · refine exec_request_refused (r := .bulk sid flags addrs) rfl fun pre => ?_
    obtain ⟨some_addr, aligned, some_flag⟩ := (bulkPre_iff _ _).mp pre
    rcases broken with none_given | ⟨a, ha, unaligned⟩ | ⟨read, write⟩
    · exact some_addr none_given
    · exact unaligned (aligned a ha)
    · simp [read, write] at some_flag

/-- Settles O28: both calls fail as the range of their first address does. -/
theorem tableModes : Obligations.TableModes := by
  intro s i req sid flags tes call failed
  obtain ⟨r, len, isCall, pre, hreq, first⟩ : ∃ r len, requestOf i = some r ∧ r.pre = true ∧
      req = ⟨sid, req.addr, req.atype, !flags.write⟩ ∧ ∀ w o',
        walkRange s.params s.mem (takeSnap s) sid req.addr len flags req.atype s.oracle = (.error w, o') →
          walkRequest s.params s.mem (takeSnap s) s.oracle r = (w, o') := by
    rcases call with ⟨addr, len, atype, rfl, pre, rfl⟩ | ⟨a, rest, rfl, pre, rfl⟩
    · exact ⟨_, len.toNat, rfl, pre, rfl, fun w o' => walkTranslate_of_error⟩
    · exact ⟨_, 4096, rfl, pre, rfl, fun w o' walk => walkBulk_of_first_error walk rest⟩
  rw [hreq]
  refine ⟨fun ttm => ?_, fun ttm => ?_, fun ttm => ?_⟩
  · exact exec_request_atFault isCall pre (first _ _ (walkRange_of_scalable _ _ _ _ _ _ _ _ _ tes ttm))
  · exact exec_request_atFault isCall pre (first _ _ (walkRange_of_reserved _ _ _ _ _ _ _ _ _ tes ttm))
  · have walk := walkRange_of_abort s.params s.mem (takeSnap s) sid flags req.atype req.addr len s.oracle tes ttm
    split_ifs at walk with quiet
    · rw [if_pos (show (s.reg64 .ecap).getLsbD 50 = true from quiet)]
      exact exec_request_abort isCall pre (first _ _ walk)
    · rw [if_neg (show ¬ (s.reg64 .ecap).getLsbD 50 = true from quiet)]
      exact exec_request_atFault isCall pre (first _ _ walk)

end Sys2Proof.DmaRemapping
end

section
/-! The fields of the interrupt-remapping structures (R191 to R198, R364 to R372): the index of a request, the checks of an entry
and the remapped MSI are the ones that the declarative reading of the tables names. -/

namespace Sys2Proof.Machine

/-! ### Fields bit by bit -/

theorem field_getLsbD {w : Nat} (v : BitVec w) (lo n i : Nat) :
    (field v lo n).getLsbD i = (decide (i < n) && v.getLsbD (lo + i)) := BitVec.getLsbD_extractLsb' _ _ _ _

/-- A field is the value that has its bits. -/
theorem field_eq_of_bits {w n : Nat} {v : BitVec w} {lo : Nat} {x : BitVec n}
    (bits : ∀ i < n, v.getLsbD (lo + i) = x.getLsbD i) : field v lo n = x :=
  BitVec.eq_of_getLsbD_eq fun i hi => by rw [field_getLsbD, decide_eq_true hi, Bool.true_and, bits i hi]

/-- Two fields with the same bits. -/
theorem field_eq_field_of_bits {w w' n : Nat} {v : BitVec w} {v' : BitVec w'} {lo lo' : Nat}
    (bits : ∀ i < n, v.getLsbD (lo + i) = v'.getLsbD (lo' + i)) : field v lo n = field v' lo' n :=
  field_eq_of_bits fun i hi => by rw [bits i hi, field_getLsbD, decide_eq_true hi, Bool.true_and]

theorem field_eq_zero_iff {w : Nat} {v : BitVec w} {lo n : Nat} :
    field v lo n = 0 ↔ ∀ j, lo ≤ j → j < lo + n → v.getLsbD j = false := by
  constructor
  · intro zero j low high
    have bit : (field v lo n).getLsbD (j - lo) = false := by rw [zero]; exact BitVec.getLsbD_zero
    rwa [field_getLsbD, decide_eq_true (by omega), Bool.true_and, Nat.add_sub_cancel' low] at bit
  · intro bits
    exact field_eq_of_bits fun i hi => (bits (lo + i) (by omega) (by omega)).trans BitVec.getLsbD_zero.symm

/-- Two values agree under a mask if their bits agree where the mask has a bit. -/
theorem and_eq_and_iff {w : Nat} {a b m : BitVec w} :
    a &&& m = b &&& m ↔ ∀ j < w, m.getLsbD j = true → a.getLsbD j = b.getLsbD j := by
  constructor
  · intro same j _ masked
    have bit := congrArg (·.getLsbD j) same
    simpa [masked] using bit
  · intro bits
    refine BitVec.eq_of_getLsbD_eq fun j hj => ?_
    rw [BitVec.getLsbD_and, BitVec.getLsbD_and]
    cases masked : m.getLsbD j with
    | false => rw [Bool.and_false, Bool.and_false]
    | true => rw [bits j hj masked]

theorem and_eq_zero_iff {w : Nat} {a m : BitVec w} :
    a &&& m = 0 ↔ ∀ j < w, m.getLsbD j = true → a.getLsbD j = false := by
  have masked := and_eq_and_iff (a := a) (b := 0) (m := m)
  simpa using masked

/-! ### The index and the table -/

/-- The handle of a remappable MSI as a number (R193). -/
theorem toNat_irHandle (a : Word64) :
    (irHandle a).toNat = (if a.getLsbD 2 then 2 ^ 15 else 0) + a.toNat / 32 % 2 ^ 15 := by
  have low : (field a 5 15).toNat = a.toNat / 32 % 2 ^ 15 := toNat_field a 5 15
  have high : (field a 2 1).toNat = if a.getLsbD 2 then 1 else 0 := by
    rw [toNat_field, BitVec.getLsbD, Nat.testBit_eq_decide_div_mod_eq]
    split <;> simp_all
  rw [irHandle, BitVec.toNat_append, ← Nat.shiftLeft_add_eq_or_of_lt (field a 5 15).isLt, Nat.shiftLeft_eq, low, high]
  split <;> simp

theorem irIndex_eq (a : Word64) (d : Word32) : irIndex a d =
    (if a.getLsbD 2 then 2 ^ 15 else 0) + a.toNat / 32 % 2 ^ 15 + (if a.getLsbD 3 then d.toNat % 2 ^ 16 else 0) := by
  rw [irIndex, toNat_irHandle, toNat_field, Nat.pow_zero, Nat.div_one]

theorem irTableSize_eq (irta : Word64) : irTableSize irta = 2 ^ (irta.toNat % 16 + 1) := by
  rw [irTableSize, toNat_field, Nat.pow_zero, Nat.div_one]
  rfl

/-- An entry has 16 bytes (R365). -/
theorem irteOffset_eq (index : Nat) : BitVec.ofNat 64 index <<< 4 = BitVec.ofNat 64 (16 * index) := by
  refine BitVec.eq_of_toNat_eq ?_
  rw [BitVec.toNat_shiftLeft, BitVec.toNat_ofNat, BitVec.toNat_ofNat, Nat.shiftLeft_eq, Nat.mod_mul_mod, Nat.mul_comm]

/-! ### The checks of an entry -/

/-- The reserved bits of an entry's first quadword (R196). -/
theorem irteQw0Rsvd_getLsbD (eime : Bool) : ∀ j < 64, (irteQw0Rsvd eime).getLsbD j =
    decide ((12 ≤ j ∧ j < 15) ∨ (24 ≤ j ∧ j < 32) ∨ (eime = false ∧ (32 ≤ j ∧ j < 40 ∨ 48 ≤ j))) := by
  cases eime <;> decide

/-- The reserved bits of an entry's second quadword (R196). -/
theorem irteQw1Rsvd_getLsbD : ∀ j < 64, irteQw1Rsvd.getLsbD j = decide (20 ≤ j) := by decide

/-- The reserved-bit check of R368. -/
theorem irteRsvd_eq_false_iff {eime : Bool} {q0 q1 : Word64} :
    (q0 &&& irteQw0Rsvd eime != 0 || q1 &&& irteQw1Rsvd != 0) = false ↔ IrteClean eime q0 q1 := by
  rw [Bool.or_eq_false_iff, bne_eq_false_iff_eq, bne_eq_false_iff_eq, and_eq_zero_iff, and_eq_zero_iff, IrteClean]
  simp only [field_eq_zero_iff]
  constructor
  · rintro ⟨clean0, clean1⟩
    have zero0 {j : Nat} (hj : j < 64) (rsvd : _) := clean0 j hj ((irteQw0Rsvd_getLsbD eime j hj).trans (decide_eq_true rsvd))
    refine ⟨fun j _ _ => zero0 (by omega) (by omega), fun j _ _ => zero0 (by omega) (by omega), fun off => ⟨?_, ?_⟩, ?_⟩
    · exact fun j _ _ => zero0 (by omega) (.inr (.inr ⟨off, by omega⟩))
    · exact fun j _ _ => zero0 (by omega) (.inr (.inr ⟨off, by omega⟩))
    · exact fun j low _ => clean1 j (by omega) ((irteQw1Rsvd_getLsbD j (by omega)).trans (decide_eq_true low))
  · rintro ⟨clean12, clean24, noExtended, clean20⟩
    refine ⟨fun j hj masked => ?_, fun j hj masked => ?_⟩
    · rw [irteQw0Rsvd_getLsbD eime j hj, decide_eq_true_eq] at masked
      rcases masked with ⟨low, high⟩ | ⟨low, high⟩ | ⟨off, ⟨low, high⟩ | low⟩
      · exact clean12 j low high
      · exact clean24 j low high
      · exact (noExtended off).1 j low high
      · exact (noExtended off).2 j low hj
    · rw [irteQw1Rsvd_getLsbD j hj, decide_eq_true_eq] at masked
      exact clean20 j masked hj

/-- The bits of a source ID that each qualifier compares (R197). -/
theorem sqMask_getLsbD : ∀ (sq : BitVec 2), ∀ j < 16, (sqMask sq).getLsbD j =
    decide (3 ≤ j ∨ (j = 2 ∧ sq = 0) ∨ (j = 1 ∧ (sq = 0 ∨ sq = 1)) ∨ (j = 0 ∧ sq ≠ 3)) := by decide

/-- The bits from 3 on of two source IDs agree if the numbers they make do. -/
theorem bits_from_three_iff {a b : BitVec 16} :
    (∀ j < 16, 3 ≤ j → a.getLsbD j = b.getLsbD j) ↔ a.toNat / 8 = b.toNat / 8 := by
  constructor
  · intro bits
    refine Nat.eq_of_testBit_eq fun i => ?_
    rw [show 8 = 2 ^ 3 from rfl, Nat.testBit_div_two_pow, Nat.testBit_div_two_pow, BitVec.testBit_toNat, BitVec.testBit_toNat]
    by_cases inside : i + 3 < 16
    · exact bits _ inside (Nat.le_add_left _ _)
    · rw [BitVec.getLsbD_of_ge _ _ (by omega), BitVec.getLsbD_of_ge _ _ (by omega)]
  · intro same j _ low
    have bit := congrArg (·.testBit (j - 3)) same
    simpa only [show 8 = 2 ^ 3 from rfl, Nat.testBit_div_two_pow, Nat.sub_add_cancel low, BitVec.testBit_toNat] using bit

/-- The masked comparison of R370, qualifier by qualifier. -/
theorem and_sqMask_eq_iff {a b : BitVec 16} {sq : BitVec 2} :
    a &&& sqMask sq = b &&& sqMask sq ↔
      a.toNat / 8 = b.toNat / 8 ∧ (sq = 0 → a.getLsbD 2 = b.getLsbD 2) ∧
        (sq = 0 ∨ sq = 1 → a.getLsbD 1 = b.getLsbD 1) ∧ (sq ≠ 3 → a.getLsbD 0 = b.getLsbD 0) := by
  rw [and_eq_and_iff, ← bits_from_three_iff]
  constructor
  · intro masked
    have same {j : Nat} (hj : j < 16) (compared : _) :=
      masked j hj ((sqMask_getLsbD sq j hj).trans (decide_eq_true compared))
    exact ⟨fun j hj low => same hj (.inl low), fun h => same (by omega) (.inr (.inl ⟨rfl, h⟩)),
      fun h => same (by omega) (.inr (.inr (.inl ⟨rfl, h⟩))), fun h => same (by omega) (.inr (.inr (.inr ⟨rfl, h⟩)))⟩
  · rintro ⟨high, bit2, bit1, bit0⟩ j hj masked
    rw [sqMask_getLsbD sq j hj, decide_eq_true_eq] at masked
    rcases masked with low | ⟨rfl, h⟩ | ⟨rfl, h⟩ | ⟨rfl, h⟩
    · exact high j hj low
    · exact bit2 h
    · exact bit1 h
    · exact bit0 h

/-- The comparison of R370 against the source ID of an entry. -/
theorem sidMatches_iff {sid : BitVec 16} {q1 : Word64} {sq : BitVec 2} :
    sid &&& sqMask sq = field q1 0 16 &&& sqMask sq ↔
      sid.toNat / 8 = q1.toNat / 8 % 2 ^ 13 ∧ (sq = 0 → sid.getLsbD 2 = q1.getLsbD 2) ∧
        (sq = 0 ∨ sq = 1 → sid.getLsbD 1 = q1.getLsbD 1) ∧ (sq ≠ 3 → sid.getLsbD 0 = q1.getLsbD 0) := by
  have high : (field q1 0 16).toNat / 8 = q1.toNat / 8 % 2 ^ 13 := by rw [toNat_field]; omega
  rw [and_sqMask_eq_iff, high]
  simp only [field_getLsbD, Nat.zero_add, Nat.reduceLT, decide_true, Bool.true_and]

theorem toNat_sidBus (sid : BitVec 16) : (sidBus sid).toNat = sid.toNat / 256 := by
  have := sid.isLt
  rw [show sidBus sid = field sid 8 8 from rfl, toNat_field]
  omega

theorem toNat_sidDevfn (sid : BitVec 16) : (sidDevfn sid).toNat = sid.toNat % 256 := by
  rw [show sidDevfn sid = field sid 0 8 from rfl, toNat_field]
  omega

/-- The bus-range check of R370. -/
theorem busOutside_iff {sid : BitVec 16} {q1 : Word64} :
    (sidBus sid < sidBus (field q1 0 16) ∨ sidDevfn (field q1 0 16) < sidBus sid) ↔
      ¬ (q1.toNat / 256 % 256 ≤ sid.toNat / 256 ∧ sid.toNat / 256 ≤ q1.toNat % 256) := by
  simp only [BitVec.lt_def, toNat_sidBus, toNat_sidDevfn, toNat_field]
  omega

/-- The source-validation type has two bits (R369). -/
theorem svt_cases (q1 : Word64) : field q1 18 2 = 0 ∨ field q1 18 2 = 1 ∨ field q1 18 2 = 2 ∨ field q1 18 2 = 3 := by
  generalize field q1 18 2 = svt
  revert svt
  decide

/-- Source validation as R369 and R370 state it. -/
theorem sourceCheck_eq (sid : BitVec 16) (q1 : Word64) : sourceCheck sid q1 =
    if field q1 18 2 = 3 then some .svtReserved
    else if ¬ SourceAccepted sid q1 then some (if field q1 18 2 = 1 then .sidMismatch else .busOutOfRange)
    else none := by
  simp only [sourceCheck, ne_eq, sidMatches_iff, busOutside_iff, SourceAccepted]
  rcases svt_cases q1 with svt | svt | svt | svt <;> simp [svt]

/-- The checks of a fetched entry in the order of R374. -/
theorem irteCheck_eq (eime : Bool) (sid : BitVec 16) (q0 q1 : Word64) : irteCheck eime sid q0 q1 =
    if q0.getLsbD 0 = false then some .irteNotPresent
    else if ¬ IrteClean eime q0 q1 then some .irteRsvd
    else if field q1 18 2 = 3 then some .svtReserved
    else if ¬ SourceAccepted sid q1 then some (if field q1 18 2 = 1 then .sidMismatch else .busOutOfRange)
    else if q0.getLsbD 15 = true then some .posted
    else none := by
  simp only [irteCheck, Bool.not_eq_true', ← irteRsvd_eq_false_iff, Bool.not_eq_false, sourceCheck_eq]
  split_ifs <;> rfl

/-- The fault of an entry: that of the first check in the order of R374 that it does not pass. -/
theorem irteCheck_eq_some_iff {eime : Bool} {sid : BitVec 16} {q0 q1 : Word64} {f : IrFault} :
    irteCheck eime sid q0 q1 = some f ↔
      if q0.getLsbD 0 = false then f = .irteNotPresent
      else if ¬ IrteClean eime q0 q1 then f = .irteRsvd
      else if field q1 18 2 = 3 then f = .svtReserved
      else if ¬ SourceAccepted sid q1 then f = (if field q1 18 2 = 1 then .sidMismatch else .busOutOfRange)
      else q0.getLsbD 15 = true ∧ f = .posted := by
  rw [eq_comm, irteCheck_eq]
  simp only [apply_ite (some f = ·), Option.some.injEq, reduceCtorEq, if_false_right]

/-- An entry that passes every check. -/
theorem irteCheck_eq_none {eime : Bool} {sid : BitVec 16} {q0 q1 : Word64} (present : q0.getLsbD 0 = true)
    (clean : IrteClean eime q0 q1) (accepted : SourceAccepted sid q1) (remapped : q0.getLsbD 15 = false) :
    irteCheck eime sid q0 q1 = none := by
  have validated : field q1 18 2 ≠ 3 := fun svt => by simp [SourceAccepted, svt] at accepted
  rw [irteCheck_eq, if_neg (by simp [present]), if_neg (not_not_intro clean), if_neg validated,
    if_neg (not_not_intro accepted), remapped, if_neg (Bool.false_ne_true)]

/-! ### The remapped MSI -/

/-- A bit of a field put at bit `pos` of a word. -/
theorem placedField_getLsbD {w w' : Nat} (v : BitVec w') (lo n pos j : Nat) (hj : j < w) :
    ((field v lo n).setWidth w <<< pos).getLsbD j =
      (decide (pos ≤ j) && decide (j < pos + n) && v.getLsbD (lo + (j - pos))) := by
  rw [BitVec.getLsbD_shiftLeft, BitVec.getLsbD_setWidth, field_getLsbD, decide_eq_true hj,
    decide_eq_true (show j - pos < w by omega), Bool.true_and, Bool.true_and, ← Bool.and_assoc]
  congr 1
  rw [Bool.eq_iff_iff]
  simp only [Bool.and_eq_true, Bool.not_eq_true', decide_eq_true_eq, decide_eq_false_iff_not]
  omega

/-- A one-bit field put at bit `lo` of a doubleword. -/
theorem placedBool32_getLsbD (b : Bool) (lo j : Nat) (hj : j < 32) :
    (boolBits 32 b <<< lo).getLsbD j = (decide (j = lo) && b) := by
  cases b with
  | false => rw [show boolBits 32 false = 0#32 from rfl, BitVec.zero_shiftLeft, BitVec.getLsbD_zero, Bool.and_false]
  | true =>
    rw [show boolBits 32 true = 1#32 from rfl, BitVec.getLsbD_shiftLeft, BitVec.getLsbD_one, Bool.eq_iff_iff]
    simp only [Bool.and_eq_true, Bool.not_eq_true', decide_eq_true_eq, decide_eq_false_iff_not, and_true]
    omega

/-- The base address of the interrupt range (R372). -/
theorem msiBase_getLsbD : ∀ j < 64, (0x00000000FEE00000#64).getLsbD j =
    (decide (20 ≤ j) && (0xFEE : BitVec 12).getLsbD (j - 20)) := by decide

/-- A bit of the remapped address (R372): the redirection hint, the destination mode, the destination ID and the base. -/
theorem remappedAddr_getLsbD (eime : Bool) (q0 : Word64) (j : Nat) (hj : j < 64) : (remappedAddr eime q0).getLsbD j =
    if j = 2 then q0.getLsbD 2
    else if j = 3 then q0.getLsbD 3
    else if 12 ≤ j ∧ j < 20 then q0.getLsbD (if eime then 32 + (j - 12) else 40 + (j - 12))
    else if 20 ≤ j ∧ j < 32 then (0xFEE : BitVec 12).getLsbD (j - 20)
    else if 40 ≤ j then eime && q0.getLsbD j
    else false := by
  have baseEnd : 32 ≤ j → (0xFEE : BitVec 12).getLsbD (j - 20) = false := fun h => BitVec.getLsbD_of_ge _ _ (by omega)
  cases eime <;>
    simp only [remappedAddr, BitVec.getLsbD_or, placedBool_getLsbD _ _ _ hj, placedField_getLsbD _ _ _ _ _ hj,
      msiBase_getLsbD j hj, if_true, Bool.false_eq_true, if_false] <;>
    grind

/-- A bit of the remapped data (R372): the vector, the delivery mode, the level and the trigger mode. -/
theorem remappedData_getLsbD (p : Params) (q0 : Word64) (j : Nat) (hj : j < 32) : (remappedData p q0).getLsbD j =
    if j < 8 then q0.getLsbD (16 + j)
    else if j < 11 then q0.getLsbD (5 + (j - 8))
    else if j = 14 then p.irLevel
    else if j = 15 then q0.getLsbD 4
    else false := by
  have vector : ((field q0 16 8).setWidth 32).getLsbD j = (decide (j < 8) && q0.getLsbD (16 + j)) := by
    rw [BitVec.getLsbD_setWidth, field_getLsbD, decide_eq_true hj, Bool.true_and]
  simp only [remappedData, BitVec.getLsbD_or, vector, placedField_getLsbD _ _ _ _ _ hj, placedBool32_getLsbD _ _ _ hj]
  grind

/-- The fields of the remapped address (R372); the destination ID has 32 bits in extended interrupt mode and 8 otherwise. -/
theorem remappedAddr_fields (eime : Bool) (q0 : Word64) :
    field (remappedAddr eime q0) 0 2 = 0 ∧ (remappedAddr eime q0).getLsbD 2 = q0.getLsbD 2 ∧
    (remappedAddr eime q0).getLsbD 3 = q0.getLsbD 3 ∧ field (remappedAddr eime q0) 4 8 = 0 ∧
    field (remappedAddr eime q0) 12 8 = (if eime then field q0 32 8 else field q0 40 8) ∧
    field (remappedAddr eime q0) 20 12 = 0xFEE ∧ field (remappedAddr eime q0) 32 8 = 0 ∧
    field (remappedAddr eime q0) 40 24 = (if eime then field q0 40 24 else 0) := by
  have zero {j : Nat} (hj : j < 64) (gap : j < 2 ∨ (4 ≤ j ∧ j < 12) ∨ (32 ≤ j ∧ j < 40) ∨ (40 ≤ j ∧ eime = false)) :
      (remappedAddr eime q0).getLsbD j = false := by
    rw [remappedAddr_getLsbD eime q0 j hj]
    grind
  refine ⟨field_eq_zero_iff.mpr fun j _ _ => zero (by omega) (by omega), remappedAddr_getLsbD eime q0 2 (by omega),
    remappedAddr_getLsbD eime q0 3 (by omega), field_eq_zero_iff.mpr fun j _ _ => zero (by omega) (by omega), ?_,
    field_eq_of_bits fun i hi => (remappedAddr_getLsbD eime q0 _ (by omega)).trans (by grind),
    field_eq_zero_iff.mpr fun j _ _ => zero (by omega) (by omega), ?_⟩
  · cases eime <;>
      exact field_eq_field_of_bits fun i hi => (remappedAddr_getLsbD _ q0 _ (by omega)).trans (by grind)
  · cases eime with
    | false => exact field_eq_zero_iff.mpr fun j _ _ => zero (by omega) (.inr (.inr (.inr ⟨by omega, rfl⟩)))
    | true => exact field_eq_field_of_bits fun i hi => (remappedAddr_getLsbD true q0 _ (by omega)).trans (by grind)

/-- The fields of the remapped data (R372). -/
theorem remappedData_fields (p : Params) (q0 : Word64) :
    field (remappedData p q0) 0 8 = field q0 16 8 ∧ field (remappedData p q0) 8 3 = field q0 5 3 ∧
    field (remappedData p q0) 11 3 = 0 ∧ (remappedData p q0).getLsbD 14 = p.irLevel ∧
    (remappedData p q0).getLsbD 15 = q0.getLsbD 4 ∧ field (remappedData p q0) 16 16 = 0 := by
  have zero {j : Nat} (hj : j < 32) (gap : (11 ≤ j ∧ j < 14) ∨ 16 ≤ j) : (remappedData p q0).getLsbD j = false := by
    rw [remappedData_getLsbD p q0 j hj]
    grind
  exact ⟨field_eq_field_of_bits fun i hi => (remappedData_getLsbD p q0 _ (by omega)).trans (by grind),
    field_eq_field_of_bits fun i hi => (remappedData_getLsbD p q0 _ (by omega)).trans (by grind),
    field_eq_zero_iff.mpr fun j _ _ => zero (by omega) (by omega), remappedData_getLsbD p q0 14 (by omega),
    remappedData_getLsbD p q0 15 (by omega), field_eq_zero_iff.mpr fun j _ _ => zero (by omega) (by omega)⟩

end Sys2Proof.Machine
end

section
/-! The interrupt requests as operations (R360 to R374): how each walk ends and what the operation then is. -/

namespace Sys2Proof.Machine

/-! ### Walks -/

theorem walkCompat_of_disabled {sn : Snap} (ires : sn.ires = false) (sid : BitVec 16) (a : Word64) (d : Word32) :
    walkCompat sn sid a d = .done (.msi a d) := by
  rw [walkCompat, ires]
  rfl

/-- The two outcomes of R363. -/
theorem walkCompat_of_enabled {sn : Snap} (ires : sn.ires = true) (sid : BitVec 16) (a : Word64) (d : Word32) :
    walkCompat sn sid a d = if sn.cfis = true ∧ sn.irta.getLsbD 11 = false then .done (.msi a d)
      else .irFault .compatBlocked sid none false := by
  simp only [walkCompat, ires, irEime, Bool.not_true, Bool.false_eq_true, if_false, Bool.and_eq_true, Bool.not_eq_true']

section
variable {p : Params} {m : Memory} {sn : Snap} {sid : BitVec 16} {a : Word64} {d : Word32} {o o' : List MemAnswer}

theorem walkRemap_of_disabled (ires : sn.ires = false) : walkRemap p m sn sid a d o = (.done (.msi a d), o) := by
  rw [walkRemap, ires]
  rfl

variable (ires : sn.ires = true)
include ires

theorem walkRemap_of_outOfRange (outside : irTableSize sn.irta ≤ irIndex a d) :
    walkRemap p m sn sid a d o = (.irFault .indexOutOfRange sid (some (irIndex a d)) false, o) := by
  simp only [walkRemap, ires, Bool.not_true, Bool.false_eq_true, if_false, outside, if_true]

variable (inside : irIndex a d < irTableSize sn.irta)
include inside

theorem walkRemap_of_unread (fails : Fails o o') :
    walkRemap p m sn sid a d o = (.irFault .irteReadFailed sid (some (irIndex a d)) false, o') := by
  simp only [walkRemap, ires, Bool.not_true, Bool.false_eq_true, if_false, Nat.not_le.mpr inside,
    memRead128_eq_none_iff.mpr fails]

variable {q0 q1 : Word64} (read : Reads128 m o ((sn.irta &&& hawMask p) + BitVec.ofNat 64 (16 * irIndex a d)) q0 q1 o')
include read

theorem walkRemap_of_fault {f : IrFault} (check : irteCheck (sn.irta.getLsbD 11) sid q0 q1 = some f) :
    walkRemap p m sn sid a d o = (.irFault f sid (some (irIndex a d)) (q0.getLsbD 1), o') := by
  simp only [walkRemap, ires, Bool.not_true, Bool.false_eq_true, if_false, Nat.not_le.mpr inside, irteOffset_eq,
    memRead128_eq_some_iff.mpr read, irEime, check]

theorem walkRemap_of_passed (check : irteCheck (sn.irta.getLsbD 11) sid q0 q1 = none) : walkRemap p m sn sid a d o =
    (.done (.msi (remappedAddr (sn.irta.getLsbD 11) q0) (remappedData p q0)), o') := by
  simp only [walkRemap, ires, Bool.not_true, Bool.false_eq_true, if_false, Nat.not_le.mpr inside, irteOffset_eq,
    memRead128_eq_some_iff.mpr read, irEime, check]

end

/-! ### A request that faults -/

theorem recordWalked_irFault (s : State) (req : Request) (f : IrFault) (sid : BitVec 16) (index : Option Nat) (fpd : Bool) :
    recordWalked s req (.irFault f sid index fpd) =
      { recordIrFault s f sid index fpd with replies := s.replies ++ [⟨some req.instr, .fail []⟩] } := by
  rw [← (sameRest_recordIrFault s f sid index fpd).replies]
  rfl

theorem exec_request_irFault {s : State} {i : Instr} {r : Request} (isCall : requestOf i = some r) (pre : r.pre = true)
    {o' : List MemAnswer} {f : IrFault} {sid : BitVec 16} {index : Option Nat} {fpd : Bool}
    (walk : walkRequest s.params s.mem (takeSnap s) s.oracle r = (.irFault f sid index fpd, o')) :
    exec i s = .next { recordIrFault { s with oracle := o' } f sid index fpd with
      replies := s.replies ++ [⟨some i, .fail []⟩] } := by
  obtain ⟨call, -⟩ := exec_requestOf isCall s
  rw [exec_request isCall pre, runRequest, walk, ← call]
  exact congrArg _ (recordWalked_irFault _ _ _ _ _ _)

end Sys2Proof.Machine
end

section
/-! The statements of the interrupt-remapping family. -/

open Sys2Proof Sys2Proof.Machine

namespace Sys2Proof.InterruptRemapping

/-- Settles O37: the walk passes every check, and the MSI it makes has the fields of R372. -/
theorem remapDelivers : Obligations.RemapDelivers := by
  intro s sid a d index q0 q1 o ires hindex inside read present clean accepted remapped
  rw [← irIndex_eq] at hindex
  rw [← irTableSize_eq] at inside
  subst hindex
  have check := irteCheck_eq_none present clean accepted remapped
  have walk := walkRemap_of_passed (sn := takeSnap s) ires inside read check
  have fields := And.intro (remappedAddr_fields (s.activeIrta.getLsbD 11) q0) (remappedData_fields s.params q0)
  simp only [and_assoc] at fields
  exact ⟨_, _, exec_request_done (r := .remap sid a d) rfl rfl walk, fields⟩

/-- Settles O38: each step of R374 ends the walk with its fault, which the record step takes. -/
theorem remapFaults : Obligations.RemapFaults := by
  intro s sid a d index ires hindex failed
  rw [← irIndex_eq] at hindex
  subst hindex
  have faults {f : IrFault} {fpd : Bool} {o : List MemAnswer}
      (walk : walkRemap s.params s.mem (takeSnap s) sid a d s.oracle = (.irFault f sid (some (irIndex a d)) fpd, o)) :
      exec (.irqRemap sid a d) s = failed o f fpd := exec_request_irFault (r := .remap sid a d) rfl rfl walk
  rw [← irTableSize_eq]
  refine ⟨fun outside => faults (walkRemap_of_outOfRange ires outside), fun inside => ⟨fun o fails => ?_, ?_⟩⟩
  · exact faults (walkRemap_of_unread ires inside fails)
  · intro q0 q1 o f read cause
    have check := irteCheck_eq_some_iff.mpr cause
    exact faults (walkRemap_of_fault (sn := takeSnap s) ires inside read check)

/-- Settles O35: both walks end before they look at anything but the enable bit. -/
theorem disabledRemapping : Obligations.DisabledRemapping := by
  intro s sid a d ires
  constructor
  · have walk := walkCompat_of_disabled (sn := takeSnap s) ires sid a d
    exact exec_request_done (r := .remapCompat sid a d) rfl rfl (congrArg (·, s.oracle) walk)
  · exact exec_request_done (r := .remap sid a d) rfl rfl (walkRemap_of_disabled ires)

/-- Settles O36: the walk reads nothing, so that its two outcomes are those of the operation. -/
theorem compatFormat : Obligations.CompatFormat := by
  intro s sid a d ires
  have walk := congrArg (·, s.oracle) (walkCompat_of_enabled (sn := takeSnap s) ires sid a d)
  by_cases passes : s.flag .cfis = true ∧ s.activeIrta.getLsbD 11 = false
  · rw [if_pos passes]
    exact exec_request_done (r := .remapCompat sid a d) rfl rfl (walk.trans (congrArg (·, _) (if_pos passes)))
  · rw [if_neg passes]
    exact exec_request_irFault (r := .remapCompat sid a d) rfl rfl (walk.trans (congrArg (·, _) (if_neg passes)))

end Sys2Proof.InterruptRemapping
end

section
/-! The global commands (R401 to R407): each operation of the command state machine as one straight line of updates, what a GCMD
write leaves in the flags, the registers and the pointers, and the GCMD write of either size. -/

namespace Sys2Proof.Machine

/-! ### Writes of one flag or register -/

/-- A write of the value that a register has changes nothing. -/
theorem State.setReg64_self (s : State) (x : Reg) : s.setReg64 x (s.reg64 x) = s := by
  rw [State.setReg64, State.reg64, RegFile.write64_self]
  rfl

theorem OnlyBits.setFlag {r r' : RegFile} {spans : List (Nat × Nat)} (h : OnlyBits r r' spans) (f : Flag) (b : Bool)
    (listed : f.span ∈ spans) : OnlyBits r (r'.setFlag f b) spans :=
  h.trans ((onlyBits_setFlag r' f b).mono (List.forall_mem_singleton.mpr listed))

theorem OnlyBits.writeReg64 {r r' : RegFile} {spans : List (Nat × Nat)} (h : OnlyBits r r' spans) (x : Reg) (v : Word64)
    (size : x.size = 8) (listed : x.span ∈ spans) : OnlyBits r (r'.write64 x.off v) spans :=
  h.trans ((onlyBits_writeReg64 r' x v size).mono (List.forall_mem_singleton.mpr listed))

/-! ### The queue's work -/

/-- The queue is non-empty (R431): bits 18:4 of IQH and IQT differ. -/
def State.queueNonEmpty (s : State) : Bool :=
  decide ((s.reg64 .iqh).toNat / 16 % 2 ^ 15 ≠ (s.reg64 .iqt).toNat / 16 % 2 ^ 15)

/-- The byte offset of a queue pointer is sixteen times the index in bits 18:4 (R55, R56). -/
theorem queueOffset_eq (v : Word64) : queueOffset v = v.toNat / 16 % 2 ^ 15 * 16 := by
  have mask : (0x7FFF0 : Word64) = BitVec.ofNat 64 (2 ^ 19 - 1) &&& ~~~BitVec.ofNat 64 (2 ^ 4 - 1) := by decide
  rw [queueOffset, mask, ← BitVec.and_assoc, toNat_and_not_lowMask _ (by decide), toNat_and_lowMask _ (by decide)]
  omega

theorem queueOffset_ne_iff (s : State) :
    queueOffset (s.reg64 .iqh) ≠ queueOffset (s.reg64 .iqt) ↔ s.queueNonEmpty = true := by
  rw [queueOffset_eq, queueOffset_eq, State.queueNonEmpty, decide_eq_true_iff]
  omega

/-- WakeIfPending (R431) adds its wake to a wake that is already pending. -/
theorem wakeIfPending_eq (s : State) :
    wakeIfPending s = s.withWake (s.wakePending || (!s.flag .iqe && s.queueNonEmpty)) := by
  simp only [wakeIfPending, queueOffset_ne_iff]
  cases s.queueNonEmpty <;> cases s.flag .iqe <;> simp

/-! ### The commands as straight lines of updates -/

/-- A level command assigns its status bit (R407); repeating the current state is an assignment of the same value. -/
theorem setLevel_eq (f : Flag) (on : Bool) (s : State) : setLevel f on s = s.setFlag f on := by
  unfold setLevel
  split
  · next same => exact (State.setFlag_self s f on same).symm
  · rfl

/-- A write of IQH leaves every flag. -/
theorem State.flag_setReg64_iqh (s : State) (v : Word64) (f : Flag) : (s.setReg64 .iqh v).flag f = s.flag f :=
  State.flag_setReg64_ne _ _ _ _ (by cases f <;> decide)

theorem State.queueNonEmpty_setQies (s : State) (b : Bool) : (s.setFlag .qies b).queueNonEmpty = s.queueNonEmpty := by
  rw [State.queueNonEmpty, State.reg64_setFlag_ne _ _ _ _ (by decide), State.reg64_setFlag_ne _ _ _ _ (by decide),
    State.queueNonEmpty]

/-- QIE set (R404): the worker is woken if QIES rises while there is work. -/
theorem setQie_true (s : State) : setQie true s =
    (s.setFlag .qies true).withWake (s.wakePending || (!s.flag .qies && !s.flag .iqe && s.queueNonEmpty)) := by
  cases enabled : s.flag .qies with
  | true => simp [setQie, enabled, State.setFlag_self]
  | false => simp [setQie, enabled, wakeIfPending_eq, State.queueNonEmpty_setQies]

/-- QIE clear (R404): the queue head is reset if QIES falls. -/
theorem setQie_false (s : State) : setQie false s =
    (s.setFlag .qies false).setReg64 .iqh (if s.flag .qies = true then 0 else s.reg64 .iqh) := by
  cases enabled : s.flag .qies with
  | true => simp [setQie, enabled]
  | false => simp [setQie, enabled, State.setFlag_self, State.setReg64_self]

/-- The QIE command in one line, for either value of its bit (R404). -/
theorem setQie_eq (on : Bool) (s : State) : setQie on s =
    ((s.setFlag .qies on).setReg64 .iqh (if s.flag .qies = true ∧ on = false then 0 else s.reg64 .iqh)).withWake
      (s.wakePending || (on && !s.flag .qies && !s.flag .iqe && s.queueNonEmpty)) := by
  cases on with
  | true =>
    have head : (s.setFlag .qies true).setReg64 .iqh (s.reg64 .iqh) = s.setFlag .qies true := by
      rw [← State.reg64_setFlag_ne s .qies true .iqh (by decide), State.setReg64_self]
    simp [setQie_true, head]
  | false => simp only [setQie_false, and_true, Bool.false_and, Bool.or_false]; rfl

theorem onlyBits_setQie (on : Bool) (s : State) : OnlyBits s.regs (setQie on s).regs [Flag.qies.span, Reg.iqh.span] := by
  rw [setQie_eq]
  exact ((OnlyBits.refl s.regs _).setFlag .qies on (by decide)).writeReg64 .iqh _ rfl (by decide)

/-- SRTP if its bit asks for it (R405), as updates that keep what they find otherwise. -/
theorem captureRoot_ite_eq (ask : Bool) (s : State) : (if ask then captureRoot s else s) =
    (s.withActiveRtaddr (if ask then s.reg64 .rtaddr else s.activeRtaddr)).setFlag .rtps (s.flag .rtps || ask) := by
  cases ask with
  | true => simp [captureRoot]
  | false => exact (State.setFlag_self _ _ _ (Bool.or_false _).symm).symm

/-- SIRTP if its bit asks for it (R406), as updates that keep what they find otherwise. -/
theorem captureIrt_ite_eq (ask : Bool) (s : State) : (if ask then captureIrt s else s) =
    (s.withActiveIrta (if ask then s.reg64 .irta else s.activeIrta)).setFlag .irtps (s.flag .irtps || ask) := by
  cases ask with
  | true => simp [captureIrt]
  | false => exact (State.setFlag_self _ _ _ (Bool.or_false _).symm).symm

/-! ### The GCMD handler -/

/-- The GCMD handler as a straight line of updates (R401), each with its value read from the state before the write. -/
theorem gcmdHandler_eq (w : Word32) (s : State) : gcmdHandler w s =
    (((((((setQie (w.getLsbD 26) s).setFlag .ires (w.getLsbD 25)).setFlag .cfis (w.getLsbD 23)).withActiveRtaddr
      (if w.getLsbD 30 then s.reg64 .rtaddr else s.activeRtaddr)).setFlag .rtps
      (s.flag .rtps || w.getLsbD 30)).withActiveIrta
      (if w.getLsbD 24 then s.reg64 .irta else s.activeIrta)).setFlag .irtps
      (s.flag .irtps || w.getLsbD 24)).setFlag .tes (w.getLsbD 31) := by
  simp (disch := decide) [gcmdHandler, setLevel_eq, captureRoot_ite_eq, captureIrt_ite_eq, setQie_eq,
    State.reg64_setFlag_ne, State.reg64_setReg64_ne, State.flag_setReg64_iqh]

/-- A flag after a GCMD write: the four level bits are the written ones, the two pointer bits are set if asked (R401). -/
theorem flag_gcmdHandler (w : Word32) (s : State) (f : Flag) : (gcmdHandler w s).flag f =
    if f = .tes then w.getLsbD 31 else if f = .irtps then s.flag .irtps || w.getLsbD 24
    else if f = .rtps then s.flag .rtps || w.getLsbD 30 else if f = .cfis then w.getLsbD 23
    else if f = .ires then w.getLsbD 25 else if f = .qies then w.getLsbD 26 else s.flag f := by
  simp [gcmdHandler_eq, setQie_eq, State.flag_setReg64_iqh]

/-- The queue head is reset exactly when QIES falls (R404). -/
theorem iqh_gcmdHandler (w : Word32) (s : State) : (gcmdHandler w s).reg64 .iqh =
    if s.flag .qies = true ∧ w.getLsbD 26 = false then 0 else s.reg64 .iqh := by
  simp (disch := decide) [gcmdHandler_eq, setQie_eq, State.reg64_setFlag_ne, State.reg64_setReg64]

/-- The places that a GCMD write may change: six bits of GSTS and IQH (R401). -/
def gcmdSpans : List (Nat × Nat) :=
  [Flag.tes.span, Flag.qies.span, Flag.ires.span, Flag.cfis.span, Flag.rtps.span, Flag.irtps.span, Reg.iqh.span]

theorem onlyBits_gcmdHandler (w : Word32) (s : State) : OnlyBits s.regs (gcmdHandler w s).regs gcmdSpans := by
  rw [gcmdHandler_eq]
  have queue : OnlyBits s.regs (setQie (w.getLsbD 26) s).regs gcmdSpans := (onlyBits_setQie _ s).mono (by decide)
  have levels := (queue.setFlag .ires (w.getLsbD 25) (by decide)).setFlag .cfis (w.getLsbD 23) (by decide)
  exact ((levels.setFlag .rtps _ (by decide)).setFlag .irtps _ (by decide)).setFlag .tes _ (by decide)

/-- Beside the registers a GCMD write changes the two active pointers and the wake, and nothing else (R401). -/
theorem gcmdHandler_frame (w : Word32) (s : State) : gcmdHandler w s =
    { s with
      regs := (gcmdHandler w s).regs
      activeRtaddr := if w.getLsbD 30 then s.reg64 .rtaddr else s.activeRtaddr
      activeIrta := if w.getLsbD 24 then s.reg64 .irta else s.activeIrta
      wakePending := s.wakePending || (w.getLsbD 26 && !s.flag .qies && !s.flag .iqe && s.queueNonEmpty) } := by
  rw [gcmdHandler_eq, setQie_eq]
  simp only [State.setFlag, State.setReg64, State.withRegs, State.withWake, State.withActiveRtaddr, State.withActiveIrta]

/-! ### The GCMD write of either size -/

/-- A masked commit of up to eight bytes at GCMD changes no register: GCMD and GSTS have no writable bit (R32). -/
theorem maskedBit_gcmdGsts (p : Params) (r : RegFile) {n : Nat} (v : Word64) (k : Nat) (size : n ≤ 8) :
    maskedBit p r 0x018 n v k = r.spaceBit k := by
  by_cases inside : 8 * 0x018 ≤ k ∧ k < 8 * (0x018 + n)
  · have apart : ∀ x ∈ maskedRegs, 0x018 + 8 ≤ x.off ∨ x.off + x.size ≤ 0x018 := by decide
    obtain ⟨rwZero, rw1cZero⟩ := maskBytes_of_uncovered (o := k / 8) (fun x hx => by have := apart x hx; omega) p
    exact maskedBit_readOnly _ _ _ _ _ _ rwZero rw1cZero
  · exact maskedBit_outside _ _ _ _ _ _ (by omega)

/-- A write of either size at GCMD is the GCMD handler on the low 32 bits of its value (R250, R401). -/
theorem exec_write_gcmd {s : State} {i : Instr} {n : Nat} {v : Word64} (hw : writeOf i = some (0x018, n, v)) :
    exec i s = .next (gcmdHandler (v.extractLsb' 0 32) s) := by
  have size := writeOf_size hw
  have ends := s.regs.win.holdMap
  have accepts : Accepts s.regs.win 0x018 n := by
    rcases size with rfl | rfl
    · exact accepts_gcmd _
    · exact ⟨rfl, .inl (by omega)⟩
  obtain ⟨after, bits, run⟩ := exec_write hw accepts
  have same : after = s.regs :=
    RegFile.ext_spaceBit bits.1 fun k => (bits.2 k).trans (maskedBit_gcmdGsts _ _ _ k (by omega))
  rw [run, same, runHandlers_gcmd _ _ _ _ _ size, written32_gcmd _ _ size]
  rfl

theorem getLsbD_lowWord (v : Word64) {j : Nat} (hj : j < 32) : (v.extractLsb' 0 32).getLsbD j = v.getLsbD j := by
  rw [BitVec.getLsbD_extractLsb', decide_eq_true hj, Bool.true_and, Nat.zero_add]

/-! ### The level rows -/

/-- The level rows, each with its status bit and the value that it assigns (R407). -/
def levelCommandRows : List (Instr × Flag × Bool) :=
  [(.gcmdTeSet, .tes, true), (.gcmdTeClr, .tes, false), (.gcmdIreSet, .ires, true), (.gcmdIreClr, .ires, false),
    (.gcmdCfiSet, .cfis, true), (.gcmdCfiClr, .cfis, false)]

theorem exec_levelRow {i : Instr} {f : Flag} {b : Bool} (row : (i, f, b) ∈ levelCommandRows) (s : State) :
    exec i s = .next (s.setFlag f b) := by
  have runs : exec i s = .next (setLevel f b s) := by
    simp only [levelCommandRows, List.mem_cons, Prod.mk.injEq, List.not_mem_nil, or_false] at row
    rcases row with ⟨rfl, rfl, rfl⟩ | ⟨rfl, rfl, rfl⟩ | ⟨rfl, rfl, rfl⟩ | ⟨rfl, rfl, rfl⟩ | ⟨rfl, rfl, rfl⟩ |
      ⟨rfl, rfl, rfl⟩
    · exact exec_gcmdTe true s
    · exact exec_gcmdTe false s
    · exact exec_gcmdIre true s
    · exact exec_gcmdIre false s
    · exact exec_gcmdCfi true s
    · exact exec_gcmdCfi false s
  rw [runs, setLevel_eq]

end Sys2Proof.Machine
end

section
/-! The statements of the global command family. -/

open Sys2Proof Sys2Proof.Machine

namespace Sys2Proof.GlobalCommand

/-- Settles O20: the write is the GCMD handler on the low 32 bits of the written value. -/
theorem gcmdWrite : Obligations.GcmdWrite := by
  intro s i n v write
  have flag (f : Flag) := flag_gcmdHandler (v.extractLsb' 0 32) s f
  have iqh := iqh_gcmdHandler (v.extractLsb' 0 32) s
  have frame := gcmdHandler_frame (v.extractLsb' 0 32) s
  simp only [getLsbD_lowWord v (show 31 < 32 by decide), getLsbD_lowWord v (show 30 < 32 by decide),
    getLsbD_lowWord v (show 26 < 32 by decide), getLsbD_lowWord v (show 25 < 32 by decide),
    getLsbD_lowWord v (show 24 < 32 by decide), getLsbD_lowWord v (show 23 < 32 by decide)] at flag iqh frame
  exact ⟨_, exec_write_gcmd write, flag .tes, flag .qies, flag .ires, flag .cfis, flag .rtps, flag .irtps, iqh,
    onlyBits_gcmdHandler _ s, frame⟩

/-- Settles O21: a level row is the assignment of its status bit. -/
theorem levelRows : Obligations.LevelRows := by
  intro s i f b row
  have assigned : (s.setFlag f b).flag f = b := by rw [State.flag_setFlag, if_pos rfl]
  exact ⟨_, exec_levelRow row s, rfl, assigned, State.onlyBits_setFlag s f b⟩

/-- Settles O22: the two rows are the QIE command with either value of its bit. -/
theorem qieRows : Obligations.QieRows := by
  intro s
  constructor
  · have enabled := (exec_gcmdQie true s).trans (congrArg _ (setQie_true s))
    have assigned : (s.setFlag .qies true).flag .qies = true := by rw [State.flag_setFlag, if_pos rfl]
    exact ⟨_, enabled, assigned, State.onlyBits_setFlag s .qies true, rfl⟩
  · have disabled := (exec_gcmdQie false s).trans (congrArg _ (setQie_false s))
    refine ⟨_, disabled, rfl, ?_, State.reg64_setReg64 _ _ _ rfl, ?_⟩
    · rw [State.flag_setReg64_iqh, State.flag_setFlag, if_pos rfl]
    · rw [← setQie_false]
      exact onlyBits_setQie false s

/-- Settles O23: each row captures its register whole and sets its status bit. -/
theorem pointerRows : Obligations.PointerRows := by
  intro s
  constructor
  · have status : (captureRoot s).flag .rtps = true := by rw [captureRoot, State.flag_setFlag, if_pos rfl]
    exact ⟨_, exec_gcmdSrtp s, rfl, status, State.onlyBits_setFlag (s.withActiveRtaddr _) .rtps true⟩
  · have status : (captureIrt s).flag .irtps = true := by rw [captureIrt, State.flag_setFlag, if_pos rfl]
    exact ⟨_, exec_gcmdSirtp s, rfl, status, State.onlyBits_setFlag (s.withActiveIrta _) .irtps true⟩

/-- Settles O24, one row after another. -/
theorem ignoredRows : Obligations.IgnoredRows := by
  intro s i row
  simp only [List.mem_cons, List.not_mem_nil, or_false] at row
  rcases row with rfl | rfl | rfl
  · exact exec_gcmdSfl s
  · exact exec_gcmdEafl s
  · exact exec_gcmdWbf s

end Sys2Proof.GlobalCommand
end

section
/-! The invalidation-queue worker (R430 to R441, R453): the worker's step in each phase, what a queue error that stops a batch
leaves, and the meanings of the descriptor rows. -/

namespace Sys2Proof.Machine

/-! ### The worker's turn -/

/-- On the worker's turn the step is the worker's, with its entry of the schedule, if there is one, used up (R8). -/
theorem step_of_workerTurn {s : State} (turn : WorkerTurn s) : step s = workerStep (s.withAgenda s.agenda.tail) := by
  rcases step_cases s with ⟨empty, own⟩ | ⟨e, rest, scheduled, run⟩
  · rw [own, empty, List.tail_nil, ← empty, State.withAgenda_self]
  · rw [WorkerTurn, scheduled, List.head?_cons] at turn
    obtain rfl : e = .worker := by simpa using turn
    rw [run, scheduled, List.tail_cons]
    rfl

section
variable {s : State} {q : QSnap} {ds : List Desc} {k : Nat}

theorem workerStep_idle (phase : s.wphase = .idle) : workerStep s = .next (workerIdle s) := by
  rw [workerStep, workerMove, phase]

theorem workerStep_fetching (phase : s.wphase = .fetching q) : workerStep s = .next (workerFetch s q) := by
  rw [workerStep, workerMove, phase]

theorem workerStep_fetched {bs : Option (List Byte)} (phase : s.wphase = .fetched q bs) :
    workerStep s = .next (workerAdvance s q bs) := by
  rw [workerStep, workerMove, phase]

theorem workerStep_signal (phase : s.wphase = .dispatching q ds k .signal) :
    workerStep s = .next (workerSignal s q ds k) := by
  rw [workerStep, workerMove, phase]

theorem workerStep_dispatch {d : Desc} (phase : s.wphase = .dispatching q ds k .start) (up : ds[k]? = some d) :
    workerStep s = exec (decodeDesc d) s := by
  simp only [workerStep, workerMove, phase, up]

theorem workerStep_batchEnd (phase : s.wphase = .dispatching q ds k .start) (done : ds[k]? = none) :
    workerStep s = .next (workerNext s) := by
  simp only [workerStep, workerMove, phase, done]

theorem workerStep_exited (phase : s.wphase = .exited) : workerStep s = .next s := by
  rw [workerStep, workerMove, phase]

end

/-! ### A queue error that stops the batch -/

/-- A 64-bit register outside the spans that may change keeps its value. -/
theorem OnlyBits.read64_eq {r r' : RegFile} {spans : List (Nat × Nat)} (h : OnlyBits r r' spans) {off : Nat}
    (apart : ∀ sp ∈ spans, sp.1 + sp.2 ≤ 8 * off ∨ 8 * off + 64 ≤ sp.1) : r'.read64 off = r.read64 off := by
  refine BitVec.eq_of_getLsbD_eq fun j hj => ?_
  rw [RegFile.read64_getLsbD _ _ _ hj, RegFile.read64_getLsbD _ _ _ hj]
  refine h.2 _ fun sp hsp => ?_
  have := apart sp hsp
  omega

theorem batchStopped_stopBatch (s : State) (e : IqError) : BatchStopped e s (stopBatch s e) :=
  ⟨recordIqError s e, queueErrorTaken_recordIqError s e, rfl⟩

/-- A queue error leaves the queue head (R435, R437, R456). -/
theorem BatchStopped.iqh {e : IqError} {s t : State} (h : BatchStopped e s t) : t.reg64 .iqh = s.reg64 .iqh := by
  obtain ⟨u, ⟨-, -, -, -, bits⟩, rfl⟩ := h
  exact bits.read64_eq (by decide)

/-! ### Acknowledged and reserved descriptors -/

theorem exec_ackRow {d : Desc} {row : Instr × AckType} (h : row ∈ ackRows d) (s : State) :
    exec row.1 s = acknowledge row.2 s := by
  revert row
  simp only [ackRows, List.forall_mem_cons]
  exact ⟨rfl, rfl, rfl, rfl, rfl, rfl, rfl, by simp⟩

theorem exec_rsvdRow {d : Desc} {i : Instr} (h : i ∈ rsvdRows d) (s : State) : exec i s = rejectType s := by
  revert i
  simp only [rsvdRows, List.forall_mem_cons]
  exact ⟨rfl, rfl, rfl, rfl, rfl, rfl, rfl, by simp⟩

/-- Counting a descriptor adds one to the counter of its type and to no other (R70, R447). -/
theorem Stats.get_count (c : Stats) (t u : AckType) : (c.count t).get u = c.get u + (if u = t then 1 else 0) := by
  cases t <;> cases u <;> rfl

section
variable {s : State} {q : QSnap} {ds : List Desc} {k : Nat}

theorem acknowledge_start (phase : s.wphase = .dispatching q ds k .start) (t : AckType) : acknowledge t s =
    .next ((s.withStats (s.stats.count t)).withPhase (.dispatching q ds (k + 1) .start)) := by
  rw [acknowledge, phase]

theorem rejectType_start (phase : s.wphase = .dispatching q ds k .start) :
    rejectType s = .next (stopBatch s .dscTypeInvalid) := by
  rw [rejectType, phase]

end

/-! ### The completion signal -/

/-- Setting IWC writes nothing that the completion event's message or mask is read from. -/
theorem sameEvent_setIwc (s : State) : SameEvent .invCompletion s (s.setFlag .iwc true) where
  im := by rw [State.flag_setFlag, if_neg (by decide)]
  addr := State.reg32_setFlag_ne _ _ _ _ (by decide)
  uaddr := State.reg32_setFlag_ne _ _ _ _ (by decide)
  data := State.reg32_setFlag_ne _ _ _ _ (by decide)
  ecap := State.reg64_setFlag_ne _ _ _ _ (by decide)
  outputs := rfl

/-- The completion status noted and its event raised (R453). -/
def signalCompletion (s : State) : State := raiseEvent (s.setFlag .iwc true) .invCompletion

theorem flag_iwc_signalCompletion (s : State) : (signalCompletion s).flag .iwc = true := by
  rw [signalCompletion, flag_raiseEvent_ne _ (by decide), State.flag_setFlag, if_pos rfl]

theorem eventRaised_signalCompletion (s : State) : EventRaised .invCompletion s (signalCompletion s) :=
  (eventRaised_raiseEvent _ _).of_sameEvent (sameEvent_setIwc s)

theorem onlyBits_signalCompletion (s : State) :
    OnlyBits s.regs (signalCompletion s).regs [Flag.iwc.span, Flag.ieIp.span] := by
  have noted : OnlyBits s.regs (s.setFlag .iwc true).regs [Flag.iwc.span] := State.onlyBits_setFlag s .iwc true
  have raised : OnlyBits (s.setFlag .iwc true).regs (signalCompletion s).regs [Flag.ieIp.span] :=
    onlyBits_raiseEvent (s.setFlag .iwc true) .invCompletion
  exact (noted.mono (by simp)).trans (raised.mono (by simp))

theorem signalCompletion_frame (s : State) :
    signalCompletion s = { s with regs := (signalCompletion s).regs, outputs := (signalCompletion s).outputs } := by
  have same : SameRest s (signalCompletion s) := (sameRest_setFlag _ _ _).trans (sameRest_raiseEvent _ _)
  have diag : (signalCompletion s).diag = s.diag := diag_raiseEvent _ _
  rw [← diag]
  exact same.eq

/-- All that signalling a completion does: IWC is 1, the event is raised and nothing else changes (R453). -/
theorem signalCompletion_spec (s : State) :
    signalCompletion s = { s with regs := (signalCompletion s).regs, outputs := (signalCompletion s).outputs } ∧
    (signalCompletion s).flag .iwc = true ∧ EventRaised .invCompletion s (signalCompletion s) ∧
    OnlyBits s.regs (signalCompletion s).regs [Flag.iwc.span, Flag.ieIp.span] :=
  ⟨signalCompletion_frame s, flag_iwc_signalCompletion s, eventRaised_signalCompletion s, onlyBits_signalCompletion s⟩

theorem workerSignal_of_set {s : State} (iwc : s.flag .iwc = true) (q : QSnap) (ds : List Desc) (k : Nat) :
    workerSignal s q ds k = s.withPhase (.dispatching q ds (k + 1) .start) := by
  rw [workerSignal, if_pos iwc]

theorem workerSignal_of_clear {s : State} (iwc : ¬ s.flag .iwc = true) (q : QSnap) (ds : List Desc) (k : Nat) :
    workerSignal s q ds k = (signalCompletion s).withPhase (.dispatching q ds (k + 1) .start) := by
  rw [workerSignal, if_neg iwc, signalCompletion]

/-! ### The bytes of a batch as descriptors -/

theorem byteOf_le64OfList (bs : List Byte) {j : Nat} (hj : j < 8) : byteOf (le64OfList bs) j = bs.getD j 0 := by
  have bytes := bytes64_le64 (bs.getD 0 0) (bs.getD 1 0) (bs.getD 2 0) (bs.getD 3 0) (bs.getD 4 0) (bs.getD 5 0)
    (bs.getD 6 0) (bs.getD 7 0)
  rw [← le64OfList] at bytes
  simp only [bytes64, List.cons.injEq, and_true] at bytes
  obtain ⟨b0, b1, b2, b3, b4, b5, b6, b7⟩ := bytes
  interval_cases j <;> assumption

/-- The bytes of a descriptor of a batch, quadword by quadword (R140, R436). -/
theorem byteOf_descAt (bs : List Byte) (k : Nat) {j : Nat} (hj : j < 8) :
    byteOf (descAt bs k).qw0 j = bs.getD (k + j) 0 ∧ byteOf (descAt bs k).qw1 j = bs.getD (k + 8 + j) 0 := by
  simp only [descAt, byteOf_le64OfList _ hj, getD_drop, and_self]

theorem length_splitBatch (q : QSnap) (bs : List Byte) : (splitBatch q bs).length = bs.length / dscSize q := by
  rw [splitBatch, List.length_map, List.length_range]

theorem eq_descAt_of_splitBatch {q : QSnap} {bs : List Byte} {k : Nat} {d : Desc} (h : (splitBatch q bs)[k]? = some d) :
    d = descAt bs (k * dscSize q) := by
  rw [splitBatch, List.getElem?_map, Option.map_eq_some_iff] at h
  obtain ⟨i, listed, rfl⟩ := h
  obtain ⟨inside, rfl⟩ := List.getElem?_eq_some_iff.mp listed
  rw [List.getElem_range]

/-- After bytes read, the advance writes the head and nothing else of the registers (R438). -/
theorem workerAdvance_some (s : State) (q : QSnap) (bs : List Byte) : workerAdvance s q (some bs) =
    (s.setReg64 .iqh (BitVec.ofNat 64 q.tail)).withPhase (.dispatching q (splitBatch q bs) 0 .start) := rfl

theorem iqh_workerAdvance (s : State) (q : QSnap) (bs : List Byte) :
    (workerAdvance s q (some bs)).reg64 .iqh = BitVec.ofNat 64 q.tail := by
  rw [workerAdvance_some, State.reg64_withPhase, State.reg64_setReg64 _ _ _ rfl]

theorem onlyBits_workerAdvance (s : State) (q : QSnap) (bs : List Byte) :
    OnlyBits s.regs (workerAdvance s q (some bs)).regs [Reg.iqh.span] := by
  rw [workerAdvance_some, State.withPhase_regs]
  exact State.onlyBits_setReg64 _ _ _ rfl

theorem workerAdvance_frame (s : State) (q : QSnap) (bs : List Byte) : workerAdvance s q (some bs) =
    { s with
      regs := (workerAdvance s q (some bs)).regs
      wphase := .dispatching q (splitBatch q bs) 0 .start } := rfl

end Sys2Proof.Machine
end

section
/-! The wait descriptor (R450 to R455): its reserved bits, its status write and what its meaning is in each case. -/

namespace Sys2Proof.Machine

/-! ### The reserved bits and the status data -/

/-- The bits of the first quadword that R212 does not name: 7 without `ECAP.PDS`, 8, and 12 to 31. -/
theorem waitQw0Rsvd_getLsbD (pds : Bool) : ∀ j < 64, (~~~waitQw0Valid pds).getLsbD j =
    (decide (j = 7) && !pds || decide (j = 8) || decide (12 ≤ j) && decide (j < 32)) := by
  cases pds <;> decide

theorem waitQw1Rsvd_getLsbD : ∀ j < 64, (~~~waitQw1Valid).getLsbD j = decide (j < 2) := by decide

/-- The first quadword has no reserved bit set if bit 7 asks for a drain only where that is valid, and bits 8 and 12 to 31
are 0. -/
theorem waitQw0_clean_iff (pds : Bool) (v : Word64) : v &&& ~~~waitQw0Valid pds = 0 ↔
    (v.getLsbD 7 = true → pds = true) ∧ v.getLsbD 8 = false ∧ field v 12 20 = 0 := by
  rw [and_eq_zero_iff, field_eq_zero_iff]
  constructor
  · intro bits
    refine ⟨fun drain => ?_, bits 8 (by decide) ?_, fun j from12 below => bits j (by omega) ?_⟩
    · by_contra unsupported
      have clear := bits 7 (by decide) (by rw [waitQw0Rsvd_getLsbD pds 7 (by decide)]; simpa using unsupported)
      rw [drain] at clear
      cases clear
    · rw [waitQw0Rsvd_getLsbD pds 8 (by decide)]; simp
    · rw [waitQw0Rsvd_getLsbD pds j (by omega)]; simp [from12, below]
  · rintro ⟨drain, bit8, upper⟩ j inside reserved
    rw [waitQw0Rsvd_getLsbD pds j inside] at reserved
    simp only [Bool.or_eq_true, Bool.and_eq_true, decide_eq_true_eq, Bool.not_eq_true'] at reserved
    rcases reserved with (⟨rfl, noPds⟩ | rfl) | ⟨from12, below⟩
    · by_contra set
      rw [drain (by simpa using set)] at noPds
      cases noPds
    · exact bit8
    · exact upper j from12 below

/-- The second quadword has no reserved bit set if bits 1:0 are 0. -/
theorem waitQw1_clean_iff (v : Word64) : v &&& ~~~waitQw1Valid = 0 ↔ field v 0 2 = 0 := by
  rw [and_eq_zero_iff, field_eq_zero_iff]
  constructor
  · exact fun bits j _ below => bits j (by omega) (by rw [waitQw1Rsvd_getLsbD j (by omega)]; simpa using below)
  · intro bits j inside reserved
    rw [waitQw1Rsvd_getLsbD j inside, decide_eq_true_eq] at reserved
    exact bits j (Nat.zero_le j) (by omega)

/-- A wait descriptor passes the reserved-bit check of R451 if each reserved field is 0. -/
theorem waitRsvd_eq_false_iff (pds : Bool) (d : Desc) : waitRsvd pds d = false ↔
    (d.qw0.getLsbD 7 = true → pds = true) ∧ d.qw0.getLsbD 8 = false ∧ field d.qw0 12 20 = 0 ∧ field d.qw1 0 2 = 0 := by
  rw [waitRsvd, Bool.or_eq_false_iff, bne_eq_false_iff_eq, bne_eq_false_iff_eq, waitQw0_clean_iff, waitQw1_clean_iff,
    and_assoc, and_assoc]

/-- With bits 1:0 of the second quadword 0, the status address is that quadword (R452). -/
theorem waitStatusAddr_eq {d : Desc} (aligned : field d.qw1 0 2 = 0) : waitStatusAddr d = d.qw1 := by
  rw [field_eq_zero_iff] at aligned
  have mask : ∀ j < 64, (~~~0x3#64).getLsbD j = decide (2 ≤ j) := by decide
  refine BitVec.eq_of_getLsbD_eq fun j hj => ?_
  rw [waitStatusAddr, BitVec.getLsbD_and, mask j hj]
  by_cases low : j < 2
  · rw [aligned j (Nat.zero_le j) (by omega), Bool.false_and]
  · rw [decide_eq_true (by omega), Bool.and_true]

/-- The status data are bytes 4 to 7 of the first quadword (R452). -/
theorem waitStatusBytes_eq (d : Desc) :
    waitStatusBytes d = [byteOf d.qw0 4, byteOf d.qw0 5, byteOf d.qw0 6, byteOf d.qw0 7] := by
  rw [waitStatusBytes, bytes32, field, byteOf_high_half _ 0 (by decide), byteOf_high_half _ 1 (by decide),
    byteOf_high_half _ 2 (by decide), byteOf_high_half _ 3 (by decide)]

/-! ### The status write -/

theorem writeFails_iff (o : List MemAnswer) : writeFails o = true ↔ o.head? = some .fail := by
  rcases o with _ | ⟨_ | _ | _, _⟩ <;> simp [writeFails]

theorem memWrite_refused {s : State} (refused : s.oracle.head? = some .fail) (a : Word64) (bs : List Byte) :
    memWrite s a bs = ((s.emit (.writeGuest a bs)).withOracle s.oracle.tail, false) := by
  rw [memWrite, if_pos ((writeFails_iff _).mpr refused)]

theorem memWrite_taken {s : State} (taken : s.oracle.head? ≠ some .fail) (a : Word64) (bs : List Byte) :
    memWrite s a bs = (((s.emit (.writeGuest a bs)).withOracle s.oracle.tail).withMem (s.mem.store a bs), true) := by
  rw [memWrite, if_neg (mt (writeFails_iff _).mp taken)]

theorem waitStatusWrite_of_sw {d : Desc} (sw : d.qw0.getLsbD 5 = true) (s : State) :
    waitStatusWrite s d = memWrite s (waitStatusAddr d) (waitStatusBytes d) := by
  rw [waitStatusWrite, if_pos sw]

theorem waitStatusWrite_of_not_sw {d : Desc} (sw : ¬ d.qw0.getLsbD 5 = true) (s : State) :
    waitStatusWrite s d = (s, true) := by
  rw [waitStatusWrite, if_neg sw]

/-- A store that does not wrap around changes the bytes it covers and no others. -/
theorem Memory.byteAt_store_eq {m : Memory} {a : Word64} {bs : List Byte} (wf : m.wf)
    (inside : a.toNat + bs.length ≤ 2 ^ 64) (x : Word64) : (m.store a bs).byteAt x =
      if a.toNat ≤ x.toNat ∧ x.toNat < a.toNat + bs.length then bs.getD (x.toNat - a.toNat) 0 else m.byteAt x := by
  have place (k : Nat) (hk : k < bs.length) : (a + BitVec.ofNat 64 k).toNat = a.toNat + k := by
    rw [BitVec.toNat_add, BitVec.toNat_ofNat]
    omega
  split
  · next covered =>
    have stored : x.toNat - a.toNat < bs.length := by omega
    have byte := Memory.byteAt_store m a bs wf (by omega) _ stored
    have address : a + BitVec.ofNat 64 (x.toNat - a.toNat) = x :=
      BitVec.eq_of_toNat_eq (by rw [place _ stored]; omega)
    rw [address] at byte
    rw [byte, List.getD_eq_getElem _ _ stored]
  · next apart =>
    refine Memory.byteAt_store_ne m a x bs wf fun k hk same => apart ?_
    rw [same, place k hk]
    omega

/-- Guest memory after a taken status write, byte by byte (R452). -/
theorem byteAt_store_waitStatus {m : Memory} (wf : m.wf) (d : Desc) (x : Word64) :
    (m.store (waitStatusAddr d) (waitStatusBytes d)).byteAt x =
      if (waitStatusAddr d).toNat ≤ x.toNat ∧ x.toNat < (waitStatusAddr d).toNat + 4 then
        byteOf d.qw0 (4 + (x.toNat - (waitStatusAddr d).toNat))
      else m.byteAt x := by
  have last := toNat_waitStatusAddr_add d (k := 3) (by decide)
  have bound := (waitStatusAddr d + BitVec.ofNat 64 3).isLt
  have four : (waitStatusBytes d).length = 4 := bytes32_length _
  rw [Memory.byteAt_store_eq wf (by omega), four]
  refine ite_congr rfl (fun covered => ?_) fun _ => rfl
  obtain ⟨k, offset⟩ : ∃ k, x.toNat - (waitStatusAddr d).toNat = k := ⟨_, rfl⟩
  have inside : k < 4 := by omega
  rw [offset, waitStatusBytes_eq]
  interval_cases k <;> rfl

/-! ### The meaning of a wait descriptor -/

section
variable {s : State} {q : QSnap} {ds : List Desc} {k : Nat} {d : Desc}

theorem exec_wait_of_rsvd (phase : s.wphase = .dispatching q ds k .start) (rsvd : waitRsvd s.ecapPds d = true) :
    exec (.dscInvWait d) s = .next (stopBatch s .waitRsvd) := by
  change execDscInvWait d s = _
  simp only [execDscInvWait, phase, rsvd, if_true]

theorem exec_wait_of_refused {s1 : State} (phase : s.wphase = .dispatching q ds k .start)
    (clean : waitRsvd s.ecapPds d = false) (write : waitStatusWrite s d = (s1, false)) :
    exec (.dscInvWait d) s = .next (stopBatch s1 .waitStatusWriteFailed) := by
  change execDscInvWait d s = _
  simp only [execDscInvWait, phase, clean, write, Bool.false_eq_true, if_false]

/-- Where the worker goes after a wait descriptor's status write: to its signal stage if IF is set (R453). -/
def afterWait (q : QSnap) (ds : List Desc) (k : Nat) (d : Desc) : WPhase :=
  if d.qw0.getLsbD 4 then .dispatching q ds k .signal else .dispatching q ds (k + 1) .start

theorem exec_wait_of_written {s1 : State} (phase : s.wphase = .dispatching q ds k .start)
    (clean : waitRsvd s.ecapPds d = false) (write : waitStatusWrite s d = (s1, true)) :
    exec (.dscInvWait d) s = .next (s1.withPhase (afterWait q ds k d)) := by
  change execDscInvWait d s = _
  simp only [execDscInvWait, phase, clean, write, Bool.false_eq_true, if_false, afterWait]
  split <;> rfl

end

end Sys2Proof.Machine
end

section
/-! The check for work and the fetch (R433 to R436): the snapshot's fields as numbers, the batch checks in their order, and the
bytes of a batch in ring order. -/

namespace Sys2Proof.Machine

/-! ### The snapshot of the queue registers -/

theorem queueSnap_head (s : State) : (queueSnap s).head = (s.reg64 .iqh).toNat / 16 % 2 ^ 15 * 16 := queueOffset_eq _

theorem queueSnap_tail (s : State) : (queueSnap s).tail = (s.reg64 .iqt).toNat / 16 % 2 ^ 15 * 16 := queueOffset_eq _

theorem queueSnap_size (s : State) : (queueSnap s).size = 4096 * 2 ^ ((s.reg64 .iqa).toNat % 8) := by
  change 4096 * 2 ^ (field (s.reg64 .iqa) 0 3).toNat = _
  rw [toNat_field, Nat.pow_zero, Nat.div_one]
  rfl

theorem queueSnap_ttm (s : State) : (queueSnap s).ttm = field s.activeRtaddr 10 2 := rfl

theorem queueSnap_wide (s : State) : (queueSnap s).wide = (s.reg64 .iqa).getLsbD 11 := rfl

/-! ### The batch checks -/

/-- A multiple of 16 has bit 4 set exactly if it is not a multiple of 32. -/
theorem testBit_four_iff {n : Nat} (aligned : n % 16 = 0) : n.testBit 4 = true ↔ n % 32 ≠ 0 := by
  rw [Nat.testBit_eq_decide_div_mod_eq, decide_eq_true_iff]
  omega

/-- The batch checks in the order of R434 and R435, the alignment of the tail as a remainder. -/
theorem batchCheck_eq {q : QSnap} (aligned : q.tail % 16 = 0) : batchCheck q =
    if q.ttm = 0b10 then some .ttmReserved
    else if q.size ≤ q.tail then some .tailInvalid
    else if q.wide = true ∧ q.tail % 32 ≠ 0 then some .tailMisaligned
    else if q.size ≤ q.head then some .tailInvalid
    else none := by
  simp only [batchCheck, Bool.and_eq_true, testBit_four_iff aligned]

theorem checkQueue_of_sleeps {s : State}
    (sleeps : s.flag .qies = false ∨ s.flag .iqe = true ∨ (queueSnap s).head = (queueSnap s).tail) :
    checkQueue s = s.withPhase .idle := by
  rw [checkQueue]
  rcases sleeps with disabled | failed | empty
  · rw [if_pos (.inl disabled)]
  · rw [if_pos (.inr failed)]
  · rw [if_pos empty, ite_self]

/-- A queue that is enabled, not in error and not empty. -/
structure HasWork (s : State) : Prop where
  running : ¬ (s.flag .qies = false ∨ s.flag .iqe = true)
  nonEmpty : (queueSnap s).head ≠ (queueSnap s).tail

theorem HasWork.checkQueue_stops {s : State} {e : IqError} (work : HasWork s) (fails : batchCheck (queueSnap s) = some e) :
    BatchStopped e s (checkQueue s) := by
  rw [checkQueue, if_neg work.running, if_neg work.nonEmpty, fails]
  exact batchStopped_stopBatch s e

theorem HasWork.checkQueue_fetches {s : State} (work : HasWork s) (passes : batchCheck (queueSnap s) = none) :
    checkQueue s = s.withPhase (.fetching (queueSnap s)) := by
  rw [checkQueue, if_neg work.running, if_neg work.nonEmpty, passes]

/-! ### Reads of guest memory -/

theorem memRead_honest {o : List MemAnswer} (honest : ∀ x ∈ o.take 1, x = .honest) (m : Memory) (a : Word64) (n : Nat) :
    memRead m o a n = (some (m.bytesAt a n), o.drop 1) := by
  match o with
  | [] => rfl
  | x :: rest =>
    obtain rfl : x = .honest := honest x (List.mem_singleton_self x)
    rfl

theorem memRead_fails {o o' : List MemAnswer} (fails : Fails o o') (m : Memory) (a : Word64) (n : Nat) :
    memRead m o a n = (none, o') := by
  rw [fails, memRead]

/-- A read whose answer is no failure supplies bytes and uses up that answer. -/
theorem memRead_supplied {x : MemAnswer} (supplied : x ≠ .fail) (m : Memory) (o : List MemAnswer) (a : Word64) (n : Nat) :
    ∃ b, memRead m (x :: o) a n = (some b, o) := by
  cases x with
  | honest => exact ⟨_, rfl⟩
  | fail => exact absurd rfl supplied
  | bytes bs => exact ⟨_, rfl⟩

/-! ### The bytes of a batch -/

/-- The pending bytes of the ring in memory, from the head on and wrapping at the ring's end (R436). -/
def ringBytes (m : Memory) (q : QSnap) : List Byte :=
  (List.range (pendingBytes q)).map fun j => m.byteAt (q.base + BitVec.ofNat 64 ((q.head + j) % q.size))

theorem length_ringBytes (m : Memory) (q : QSnap) : (ringBytes m q).length = pendingBytes q := by
  rw [ringBytes, List.length_map, List.length_range]

theorem getElem?_ringBytes (m : Memory) {q : QSnap} {j : Nat} (hj : j < pendingBytes q) :
    (ringBytes m q)[j]? = some (m.byteAt (q.base + BitVec.ofNat 64 ((q.head + j) % q.size))) := by
  rw [ringBytes, List.getElem?_map, List.getElem?_range hj, Option.map_some]

/-- A read inside the ring is a stretch of the ring's bytes. -/
theorem bytesAt_eq_ring (m : Memory) (q : QSnap) {off n : Nat} (inside : off + n ≤ q.size) :
    m.bytesAt (q.base + BitVec.ofNat 64 off) n =
      (List.range n).map fun j => m.byteAt (q.base + BitVec.ofNat 64 ((off + j) % q.size)) := by
  refine List.map_congr_left fun j hj => ?_
  have := List.mem_range.mp hj
  rw [Nat.mod_eq_of_lt (by omega), BitVec.ofNat_add, BitVec.add_assoc]

/-- With the head below the tail, the pending bytes are one stretch. -/
theorem ringBytes_of_lt (m : Memory) {q : QSnap} (ok : SnapOk q) (inOrder : q.head < q.tail) :
    ringBytes m q = m.bytesAt (q.base + BitVec.ofNat 64 q.head) (q.tail - q.head) := by
  have := ok.tailInside
  rw [bytesAt_eq_ring m q (by omega), ringBytes, pendingBytes, if_pos inOrder]

/-- With the tail below the head, the pending bytes are the end of the ring and then its start up to the tail. -/
theorem ringBytes_of_wrap (m : Memory) {q : QSnap} (ok : SnapOk q) (wraps : q.tail < q.head) : ringBytes m q =
    m.bytesAt (q.base + BitVec.ofNat 64 q.head) (q.size - q.head) ++ m.bytesAt q.base q.tail := by
  have := ok.headInside
  have start := bytesAt_eq_ring m q (off := 0) (n := q.tail) (by omega)
  rw [BitVec.add_zero] at start
  rw [bytesAt_eq_ring m q (by omega), start, ringBytes, pendingBytes, if_neg (by omega), List.range_add, List.map_append,
    List.map_map]
  congr 1
  refine List.map_congr_left fun j _ => ?_
  rw [Function.comp_apply, show q.head + (q.size - q.head + j) = 0 + j + q.size by omega, Nat.add_mod_right]

/-! ### The fetch -/

/-- With honest answers the fetch is the ring's pending bytes, in one read or, around the ring's end, two (R436). -/
theorem fetchBatch_honest {o : List MemAnswer} (honest : ∀ x ∈ o.take 2, x = .honest) (m : Memory) {q : QSnap}
    (ok : SnapOk q) :
    fetchBatch m o q = (some (ringBytes m q), o.drop (if q.tail < q.head ∧ q.tail ≠ 0 then 2 else 1)) := by
  have first : ∀ x ∈ o.take 1, x = .honest := fun x hx => honest x (List.take_subset_take_left o (by decide) hx)
  have second : ∀ x ∈ (o.drop 1).take 1, x = .honest := fun x hx =>
    honest x (List.mem_of_mem_drop (List.take_drop ▸ hx))
  rw [fetchBatch]
  by_cases inOrder : q.head < q.tail
  · rw [if_pos inOrder, memRead_honest first, if_neg (by omega), ringBytes_of_lt m ok inOrder]
  · have wraps : q.tail < q.head := by have := ok.nonEmpty; omega
    rw [if_neg inOrder, memRead_honest first, ringBytes_of_wrap m ok wraps]
    by_cases atStart : q.tail = 0
    · simp [atStart, Memory.bytesAt]
    · simp only [if_neg atStart, memRead_honest second, if_pos (And.intro wraps atStart), List.drop_drop]

theorem fetchBatch_first_fails {o o' : List MemAnswer} (fails : Fails o o') (m : Memory) (q : QSnap) :
    fetchBatch m o q = (none, o') := by
  rw [fetchBatch, memRead_fails fails, memRead_fails fails, ite_self]

theorem fetchBatch_second_fails {x : MemAnswer} {o o' : List MemAnswer} (supplied : x ≠ .fail) (fails : Fails o o')
    (m : Memory) {q : QSnap} (wraps : q.tail < q.head) (notAtStart : q.tail ≠ 0) :
    fetchBatch m (x :: o) q = (none, o') := by
  obtain ⟨b, first⟩ := memRead_supplied supplied m o (q.base + BitVec.ofNat 64 q.head) (q.size - q.head)
  simp only [fetchBatch, if_neg (show ¬ q.head < q.tail by omega), first, if_neg notAtStart, memRead_fails fails]

/-- The worker's fetch changes the answers left and the phase (R436). -/
theorem workerFetch_eq {s : State} {q : QSnap} {b : Option (List Byte)} {o : List MemAnswer}
    (fetch : fetchBatch s.mem s.oracle q = (b, o)) : workerFetch s q = { s with oracle := o, wphase := .fetched q b } := by
  rw [workerFetch, fetch]
  rfl

end Sys2Proof.Machine
end

section
/-! The statements of the invalidation-queue family. -/

open Sys2Proof Sys2Proof.Machine

namespace Sys2Proof.InvalidationQueue

/-- Settles O7: a ring descriptor always decodes, and to a row that it fits. -/
theorem stepRunsDescriptor : Obligations.StepRunsDescriptor := by
  intro s q ds k d i turn phase up decoded
  obtain rfl : decodeDesc d = i := Except.ok.inj ((decodeRing_encodeDesc d).symm.trans decoded)
  refine ⟨(wellFormed_dscRow_iff (decodeDesc_mem_dscRows d)).mpr (decodeDesc_fits d), ?_⟩
  rw [step_of_workerTurn turn]
  exact workerStep_dispatch phase up

/-- Settles O44: every acknowledged row is the acknowledgement of its type. -/
theorem acknowledgedTypes : Obligations.AcknowledgedTypes := by
  intro s d row q ds k listed phase
  exact ⟨_, (exec_ackRow listed s).trans (acknowledge_start phase row.2), s.stats.get_count row.2⟩

/-- Settles O45: every reserved row is the rejection of its type. -/
theorem reservedTypes : Obligations.ReservedTypes := by
  intro s d i q ds k listed phase
  have stopped := batchStopped_stopBatch s .dscTypeInvalid
  exact ⟨_, (exec_rsvdRow listed s).trans (rejectType_start phase), stopped, stopped.iqh⟩

/-- Settles O46: the status write is taken or not asked for, and the stage is chosen by IF. -/
theorem waitCompletes : Obligations.WaitCompletes := by
  intro s d q ds k wf phase drain bit8 upper aligned taken
  have clean : waitRsvd s.ecapPds d = false := (waitRsvd_eq_false_iff _ d).mpr ⟨drain, bit8, upper, aligned⟩
  by_cases sw : d.qw0.getLsbD 5 = true
  · have write := (waitStatusWrite_of_sw sw s).trans (memWrite_taken (taken sw) _ _)
    refine ⟨_, exec_wait_of_written phase clean write, rfl, ?_⟩
    rw [if_pos sw, ← waitStatusBytes_eq, ← waitStatusAddr_eq aligned]
    exact ⟨rfl, rfl, byteAt_store_waitStatus wf d⟩
  · refine ⟨_, exec_wait_of_written phase clean (waitStatusWrite_of_not_sw sw s), rfl, ?_⟩
    rw [if_neg sw]
    rfl

/-- Settles O47: the reserved bits are checked before the status write, and its failure before the signal. -/
theorem waitErrors : Obligations.WaitErrors := by
  intro s d q ds k phase
  constructor
  · intro reserved
    have rsvd : waitRsvd s.ecapPds d = true := by
      by_contra clean
      obtain ⟨drain, bit8, upper, aligned⟩ := (waitRsvd_eq_false_iff _ d).mp (by simpa using clean)
      rcases reserved with ⟨set, noPds⟩ | set | set | set
      · exact absurd (drain set) (by rw [State.ecapPds, noPds]; decide)
      · exact absurd set (by rw [bit8]; decide)
      · exact set upper
      · exact set aligned
    exact ⟨_, exec_wait_of_rsvd phase rsvd, batchStopped_stopBatch s _⟩
  · intro drain bit8 upper aligned sw refused
    have clean : waitRsvd s.ecapPds d = false := (waitRsvd_eq_false_iff _ d).mpr ⟨drain, bit8, upper, aligned⟩
    have write := (waitStatusWrite_of_sw sw s).trans (memWrite_refused refused _ _)
    refine ⟨_, exec_wait_of_refused phase clean write, ?_⟩
    rw [← waitStatusBytes_eq, ← waitStatusAddr_eq aligned]
    exact batchStopped_stopBatch _ _

/-- Settles O48: nothing is signalled if IWC is 1 already. -/
theorem signalStep : Obligations.SignalStep := by
  intro s q ds k turn phase
  refine ⟨_, (step_of_workerTurn turn).trans (workerStep_signal phase), ?_⟩
  by_cases iwc : s.flag .iwc = true
  · rw [workerSignal_of_set (s := s.withAgenda s.agenda.tail) iwc, if_pos iwc]
    exact ⟨rfl, rfl, rfl⟩
  · rw [workerSignal_of_clear (s := s.withAgenda s.agenda.tail) iwc, if_neg iwc]
    obtain ⟨frame, status, raised, bits⟩ := signalCompletion_spec (s.withAgenda s.agenda.tail)
    exact ⟨congrArg (State.withPhase · _) frame, status, raised, bits⟩

/-- Settles O49: the snapshot's fields are the numbers of the statement, and its checks come in the statement's order. -/
theorem queueCheck : Obligations.QueueCheck := by
  intro s
  simp only [← queueSnap_head, ← queueSnap_tail, ← queueSnap_size]
  have checks := batchCheck_eq (q := queueSnap s) (queueOffset_aligned _)
  rw [queueSnap_ttm, queueSnap_wide] at checks
  by_cases sleeps : s.flag .qies = false ∨ s.flag .iqe = true ∨ (queueSnap s).head = (queueSnap s).tail
  · rw [if_pos sleeps]
    exact checkQueue_of_sleeps sleeps
  · rw [if_neg sleeps]
    have work : HasWork s := ⟨fun h => sleeps (h.imp_right .inl), fun h => sleeps (.inr (.inr h))⟩
    split_ifs with mode tailOutside misaligned headOutside
    · exact work.checkQueue_stops (checks.trans (if_pos mode))
    · exact work.checkQueue_stops (by rw [checks, if_neg mode, if_pos tailOutside])
    · exact work.checkQueue_stops (by rw [checks, if_neg mode, if_neg tailOutside, if_pos misaligned])
    · exact work.checkQueue_stops
        (by rw [checks, if_neg mode, if_neg tailOutside, if_neg misaligned, if_pos headOutside])
    · have passes : batchCheck (queueSnap s) = none := by
        rw [checks, if_neg mode, if_neg tailOutside, if_neg misaligned, if_neg headOutside]
      exact ⟨queueSnap s, work.checkQueue_fetches passes, snapOk_queueSnap s work.nonEmpty passes, rfl, rfl, rfl, rfl,
        rfl, rfl⟩

/-- Settles O50: what the fetch keeps is what its reads answer. -/
theorem fetchStep : Obligations.FetchStep := by
  intro s q turn phase ok
  have run {b : Option (List Byte)} {o : List MemAnswer} (fetch : fetchBatch s.mem s.oracle q = (b, o)) :
      step s = .next { s with agenda := s.agenda.tail, oracle := o, wphase := .fetched q b } := by
    rw [step_of_workerTurn turn, workerStep_fetching (s := s.withAgenda s.agenda.tail) phase,
      workerFetch_eq (s := s.withAgenda s.agenda.tail) fetch]
    rfl
  refine ⟨fun honest => ⟨ringBytes s.mem q, run (fetchBatch_honest honest s.mem ok), length_ringBytes s.mem q,
    fun j hj => getElem?_ringBytes s.mem hj⟩, fun o fails => run (fetchBatch_first_fails fails s.mem q), ?_⟩
  intro wraps notAtStart x o answers supplied o' fails
  exact run (by rw [answers]; exact fetchBatch_second_fails supplied fails s.mem wraps notAtStart)

/-- Settles O51: the head is written from the snapshot, and the descriptors are cut from the bytes read. -/
theorem advanceStep : Obligations.AdvanceStep := by
  intro s q bs turn phase
  have run : step s = .next (workerAdvance (s.withAgenda s.agenda.tail) q bs) :=
    (step_of_workerTurn turn).trans (workerStep_fetched phase)
  constructor
  · rintro b rfl
    refine ⟨_, splitBatch q b, run, workerAdvance_frame _ q b, iqh_workerAdvance _ q b, onlyBits_workerAdvance _ q b,
      length_splitBatch q b, fun k d up j hj => ?_⟩
    rw [eq_descAt_of_splitBatch up]
    exact byteOf_descAt b _ hj
  · rintro rfl
    have stopped := batchStopped_stopBatch (s.withAgenda s.agenda.tail) .fetchFailed
    exact ⟨_, run, stopped, stopped.iqh⟩

/-- Settles O52, phase by phase. -/
theorem workerTurns : Obligations.WorkerTurns := by
  intro s turn
  rw [step_of_workerTurn turn]
  exact ⟨fun idle => workerStep_idle idle,
    fun q ds batchEnd => workerStep_batchEnd batchEnd (List.getElem?_eq_none le_rfl),
    fun exited => workerStep_exited exited⟩

end Sys2Proof.InvalidationQueue
end

section
/-! Taking faults (R485 to R491): what a primary fault writes to a free slot, and the record words of the requests' faults. -/

namespace Sys2Proof.Machine

/-! ### Frames of a state -/

/-- A state that differs in nothing but registers and outputs, written as an update. -/
theorem SameRest.eq_of_diag {s t : State} (h : SameRest s t) (diag : t.diag = s.diag) :
    t = { s with regs := t.regs, outputs := t.outputs } := by
  have frame := h.eq
  rwa [diag] at frame

/-- A 32-bit register outside the spans that may change keeps its value. -/
theorem OnlyBits.read32_eq {r r' : RegFile} {spans : List (Nat × Nat)} (h : OnlyBits r r' spans) {off : Nat}
    (apart : ∀ sp ∈ spans, sp.1 + sp.2 ≤ 8 * off ∨ 8 * off + 32 ≤ sp.1) : r'.read32 off = r.read32 off := by
  refine BitVec.eq_of_getLsbD_eq fun j hj => ?_
  rw [RegFile.read32_getLsbD _ _ _ hj, RegFile.read32_getLsbD _ _ _ hj]
  refine h.2 _ fun sp hsp => ?_
  have := apart sp hsp
  omega

/-- A flag outside the spans that may change keeps its value. -/
theorem OnlyBits.flag_eq {s t : State} {spans : List (Nat × Nat)} (h : OnlyBits s.regs t.regs spans) {f : Flag}
    (apart : ∀ sp ∈ spans, f.pos < sp.1 ∨ sp.1 + sp.2 ≤ f.pos) : t.flag f = s.flag f := by
  rw [State.flag_eq_spaceBit, State.flag_eq_spaceBit, h.2 _ apart]

/-! ### Field assignments -/

/-- A field after its assignment. -/
theorem field_setField {w n : Nat} (v : BitVec w) {lo : Nat} (x : BitVec n) (h : lo + n ≤ w) :
    field (setField v lo x) lo n = x :=
  field_eq_of_bits fun i hi => by
    rw [setField_getLsbD _ _ _ _ (by omega), if_pos (by omega), Nat.add_sub_cancel_left]

/-- The assignment of a field of a register changes the bits of that field only. -/
theorem State.onlyBits_setField (s : State) (x : Reg) (lo : Nat) {n : Nat} (v : BitVec n) (h : x.size = 4) :
    OnlyBits s.regs (s.setReg32 x (setField (s.reg32 x) lo v)).regs [(8 * x.off + lo, n)] := by
  refine ⟨RegFile.win_write32 _ _ _, fun k outside => ?_⟩
  have apart := outside _ List.mem_cons_self
  rw [State.setReg32_regs, RegFile.spaceBit_writeReg32 _ _ _ _ h]
  split
  · next inside =>
    rw [setField_getLsbD _ _ _ _ (by omega), if_neg (by omega), State.reg32_getLsbD _ _ _ (by omega),
      Nat.add_sub_cancel' inside.1]
  · rfl

/-! ### A fault stored in a free slot -/

/-- The bits of the registers that a stored fault may change before its event is raised (R485). -/
def recordSpans : List (Nat × Nat) := [Reg.frcdLo.span, Reg.frcdHi.span, Flag.ppf.span, (8 * Reg.fsts.off + 8, 8)]

/-- Of FSTS only PPF and FRI change. -/
theorem onlyRecord_storeFault (s : State) (hi lo : Word64) : OnlyBits s.regs (storeFault s hi lo).regs recordSpans := by
  unfold storeFault
  extract_lets s1
  have recordLo : OnlyBits _ _ recordSpans := (s.onlyBits_setReg64 .frcdLo lo rfl).mono (by decide)
  have recordHi : OnlyBits _ _ recordSpans :=
    ((s.setReg64 .frcdLo lo).onlyBits_setReg64 .frcdHi (hi ||| 1#64 <<< 63) rfl).mono (by decide)
  have pending : OnlyBits _ s1.regs recordSpans := (State.onlyBits_setFlag _ .ppf true).mono (by decide)
  have index : OnlyBits _ _ recordSpans := (s1.onlyBits_setField .fsts 8 0#8 rfl).mono (by decide)
  exact ((recordLo.trans recordHi).trans pending).trans index

theorem frcdLo_storeFault (s : State) (hi lo : Word64) : (storeFault s hi lo).reg64 .frcdLo = lo := by
  rw [storeFault, State.reg64_setReg32_ne _ _ _ _ (by decide), State.reg64_setFlag_ne _ _ _ _ (by decide),
    State.reg64_setReg64_ne _ _ _ _ (by decide), State.reg64_setReg64 _ _ _ rfl]

theorem frcdHi_storeFault (s : State) (hi lo : Word64) :
    (storeFault s hi lo).reg64 .frcdHi = hi ||| 1#64 <<< 63 := by
  rw [storeFault, State.reg64_setReg32_ne _ _ _ _ (by decide), State.reg64_setFlag_ne _ _ _ _ (by decide),
    State.reg64_setReg64 _ _ _ rfl]

theorem ppf_storeFault (s : State) (hi lo : Word64) : (storeFault s hi lo).flag .ppf = true := by
  rw [storeFault, flag_clearFri, State.flag_setFlag, if_pos rfl]

theorem fri_storeFault (s : State) (hi lo : Word64) : field ((storeFault s hi lo).reg32 .fsts) 8 8 = 0 := by
  rw [storeFault, State.reg32_setReg32 _ _ _ rfl]
  exact field_setField _ _ (by decide)

theorem outputs_storeFault (s : State) (hi lo : Word64) : (storeFault s hi lo).outputs = s.outputs := by
  simp only [storeFault, State.setReg32_outputs, State.setFlag_outputs, State.setReg64_outputs]

/-- A stored fault writes nothing that the fault event's message or mask is read from. -/
theorem sameEvent_storeFault (s : State) (hi lo : Word64) : SameEvent .fault s (storeFault s hi lo) :=
  have bits := onlyRecord_storeFault s hi lo
  { im := bits.flag_eq (by decide)
    addr := bits.read32_eq (by decide)
    uaddr := bits.read32_eq (by decide)
    data := bits.read32_eq (by decide)
    ecap := bits.read64_eq (by decide)
    outputs := outputs_storeFault s hi lo }

theorem reg32_raiseEvent_ne (s : State) {k : EventKind} {x : Reg} (h : k.ip.off + 4 ≤ x.off ∨ x.off + 4 ≤ k.ip.off) :
    (raiseEvent s k).reg32 x = s.reg32 x := by
  rw [State.reg32, regs_raiseEvent, RegFile.read32_setFlag_ne _ _ _ _ h, State.reg32]

/-- A record word with F set, bit by bit (R485). -/
theorem withF_getLsbD (hi : Word64) {i : Nat} (h : i < 64) :
    (hi ||| 1#64 <<< 63).getLsbD i = (hi.getLsbD i || i == 63) := by
  have mark : (1#64 <<< 63).getLsbD i = (decide (i = 63) && true) := placedBool_getLsbD true 63 i h
  rw [BitVec.getLsbD_or, mark, Bool.and_true, beq_eq_decide]

/-- Taking a primary fault (R485). -/
theorem faultTaken_recordPrimaryFault (s : State) (hi lo : Word64) : FaultTaken hi lo s (recordPrimaryFault s hi lo) := by
  refine ⟨(sameRest_recordPrimaryFault s hi lo).eq_of_diag (diag_recordPrimaryFault s hi lo), ?_⟩
  rcases recordPrimaryFault_cases s hi lo with ⟨occupied, overflow⟩ | ⟨free, stored⟩
  · rw [if_pos occupied, overflow]
    exact ⟨by rw [State.flag_setFlag, if_pos rfl], rfl, s.onlyBits_setFlag .pfo true⟩
  · change recordPrimaryFault s hi lo = raiseEvent (storeFault s hi lo) .fault at stored
    rw [if_neg (by rw [free]; decide), stored]
    refine ⟨?_, fun i h => ?_, ?_, ?_, (eventRaised_raiseEvent _ _).of_sameEvent (sameEvent_storeFault s hi lo), ?_⟩
    · rw [reg64_raiseEvent_ne _ (by decide), frcdLo_storeFault]
    · rw [reg64_raiseEvent_ne _ (by decide), frcdHi_storeFault, withF_getLsbD hi h]
    · rw [flag_raiseEvent_ne _ (by decide), ppf_storeFault]
    · rw [reg32_raiseEvent_ne _ (by decide), fri_storeFault]
    · have record := onlyRecord_storeFault s hi lo
      have raised := onlyBits_raiseEvent (storeFault s hi lo) .fault
      exact (record.mono (by decide)).trans (raised.mono (by decide))

/-! ### The record words of a request's fault -/

/-- A bit of a value put at bit `pos` of a quadword. -/
theorem placed_getLsbD {n : Nat} (x : BitVec n) (pos j : Nat) (hj : j < 64) :
    (x.setWidth 64 <<< pos).getLsbD j = (decide (pos ≤ j) && x.getLsbD (j - pos)) := by
  rw [shiftedUp_getLsbD _ _ _ hj, BitVec.getLsbD_setWidth,
    decide_eq_true (show j - pos < 64 by omega), Bool.true_and]

/-- FRCD_HI of an address-translation fault, bit by bit (R486). -/
theorem atRecordHi_getLsbD (p : Params) (f : AtFault) (r : FaultReq) (j : Nat) (hj : j < 64) :
    (atRecordHi p f r).getLsbD j =
      if j < 16 then r.sid.getLsbD j
      else if j < 32 then false
      else if j < 40 then (atReason p f).getLsbD (j - 32)
      else if j < 60 then false
      else if j < 62 then (atCode r.atype).getLsbD (j - 60)
      else decide (j = 62) && r.isRead := by
  have source : (r.sid.setWidth 64).getLsbD j = r.sid.getLsbD j := by
    rw [BitVec.getLsbD_setWidth, decide_eq_true hj, Bool.true_and]
  have sourceEnd : 16 ≤ j → r.sid.getLsbD j = false := BitVec.getLsbD_of_ge _ _
  have reasonEnd : 40 ≤ j → (atReason p f).getLsbD (j - 32) = false := fun h => BitVec.getLsbD_of_ge _ _ (by omega)
  have codeEnd : 62 ≤ j → (atCode r.atype).getLsbD (j - 60) = false := fun h => BitVec.getLsbD_of_ge _ _ (by omega)
  simp only [atRecordHi, BitVec.getLsbD_or, source, placed_getLsbD _ _ _ hj, placedBool_getLsbD _ _ _ hj]
  grind

/-- FRCD_HI of an interrupt-remapping fault, bit by bit (R486). -/
theorem irRecordHi_getLsbD (p : Params) (f : IrFault) (sid : BitVec 16) (j : Nat) (hj : j < 64) :
    (irRecordHi p f sid).getLsbD j =
      if j < 16 then sid.getLsbD j
      else if j < 32 then false
      else if j < 40 then (irReason p f).getLsbD (j - 32)
      else false := by
  have source : (sid.setWidth 64).getLsbD j = sid.getLsbD j := by
    rw [BitVec.getLsbD_setWidth, decide_eq_true hj, Bool.true_and]
  have sourceEnd : 16 ≤ j → sid.getLsbD j = false := BitVec.getLsbD_of_ge _ _
  have reasonEnd : 40 ≤ j → (irReason p f).getLsbD (j - 32) = false := fun h => BitVec.getLsbD_of_ge _ _ (by omega)
  simp only [irRecordHi, BitVec.getLsbD_or, source, placed_getLsbD _ _ _ hj]
  grind

/-- The fields of FRCD_HI of an address-translation fault (R486). -/
theorem atRecordHi_fields (p : Params) (f : AtFault) (r : FaultReq) :
    field (atRecordHi p f r) 0 16 = r.sid ∧ field (atRecordHi p f r) 16 16 = 0 ∧
    field (atRecordHi p f r) 32 8 = atReason p f ∧ field (atRecordHi p f r) 40 20 = 0 ∧
    field (atRecordHi p f r) 60 2 = atCode r.atype ∧ (atRecordHi p f r).getLsbD 62 = r.isRead ∧
    (atRecordHi p f r).getLsbD 63 = false := by
  have bit := atRecordHi_getLsbD p f r
  exact ⟨field_eq_of_bits fun i hi => (bit _ (by omega)).trans (by grind),
    field_eq_zero_iff.mpr fun j _ _ => (bit j (by omega)).trans (by grind),
    field_eq_of_bits fun i hi => (bit _ (by omega)).trans (by grind),
    field_eq_zero_iff.mpr fun j _ _ => (bit j (by omega)).trans (by grind),
    field_eq_of_bits fun i hi => (bit _ (by omega)).trans (by grind), bit 62 (by decide), bit 63 (by decide)⟩

/-- The fields of FRCD_HI of an interrupt-remapping fault (R486). -/
theorem irRecordHi_fields (p : Params) (f : IrFault) (sid : BitVec 16) :
    field (irRecordHi p f sid) 0 16 = sid ∧ field (irRecordHi p f sid) 16 16 = 0 ∧
    field (irRecordHi p f sid) 32 8 = irReason p f ∧ field (irRecordHi p f sid) 40 24 = 0 := by
  have bit := irRecordHi_getLsbD p f sid
  exact ⟨field_eq_of_bits fun i hi => (bit _ (by omega)).trans (by grind),
    field_eq_zero_iff.mpr fun j _ _ => (bit j (by omega)).trans (by grind),
    field_eq_of_bits fun i hi => (bit _ (by omega)).trans (by grind),
    field_eq_zero_iff.mpr fun j _ _ => (bit j (by omega)).trans (by grind)⟩

theorem toNat_atCode (a : AddrType) :
    (atCode a).toNat = (match a with | .untranslated => 0 | .translationReq => 1 | .translated => 2) := by
  cases a <;> rfl

/-- FRCD_LO of an address-translation fault is the address of the page (R486). -/
theorem toNat_atRecordLo (r : FaultReq) : (atRecordLo r).toNat = r.addr.toNat / 4096 * 4096 :=
  toNat_and_not_lowMask r.addr (n := 12) (by decide)

/-- FRCD_LO of an interrupt-remapping fault has the index, if there is one, in its upper 16 bits (R486). -/
theorem toNat_irRecordLo (index : Option Nat) :
    (irRecordLo index).toNat = (match index with | none => 0 | some x => x % 2 ^ 16 * 2 ^ 48) := by
  cases index with
  | none => rfl
  | some x =>
    change ((BitVec.ofNat 16 x).setWidth 64 <<< 48).toNat = x % 2 ^ 16 * 2 ^ 48
    rw [scaled_setWidth, BitVec.toNat_ofNat, BitVec.toNat_ofNat, Nat.mod_eq_of_lt (by omega), Nat.mul_comm]

/-! ### Recording a request's fault -/

/-- A qualified fault of an entry with FPD set only sets the diagnostic code (R490). -/
theorem recordAtFault_suppressed (s : State) {f : AtFault} (r : FaultReq) {fpd : Bool}
    (h : atQualified f = true ∧ fpd = true) : recordAtFault s f r fpd = s.withDiag (.at f) :=
  if_pos (Bool.and_eq_true_iff.mpr h)

/-- Any other fault is a primary fault (R488). -/
theorem recordAtFault_taken (s : State) {f : AtFault} (r : FaultReq) {fpd : Bool}
    (h : ¬ (atQualified f = true ∧ fpd = true)) :
    recordAtFault s f r fpd = recordPrimaryFault (s.withDiag (.at f)) (atRecordHi s.params f r) (atRecordLo r) :=
  if_neg (h ∘ Bool.and_eq_true_iff.mp)

/-- A qualified fault of an entry with FPD set only sets the diagnostic code (R491). -/
theorem recordIrFault_suppressed (s : State) {f : IrFault} (sid : BitVec 16) (index : Option Nat) {fpd : Bool}
    (h : irQualified f = true ∧ fpd = true) : recordIrFault s f sid index fpd = s.withDiag (.ir f) :=
  if_pos (Bool.and_eq_true_iff.mpr h)

/-- Any other fault is a primary fault (R488). -/
theorem recordIrFault_taken (s : State) {f : IrFault} (sid : BitVec 16) (index : Option Nat) {fpd : Bool}
    (h : ¬ (irQualified f = true ∧ fpd = true)) : recordIrFault s f sid index fpd =
      recordPrimaryFault (s.withDiag (.ir f)) (irRecordHi s.params f sid) (irRecordLo index) :=
  if_neg (h ∘ Bool.and_eq_true_iff.mp)

end Sys2Proof.Machine
end

section
/-! The statements of the exceptions family. -/

open Sys2Proof Sys2Proof.Machine

namespace Sys2Proof.Exceptions

/-- Settles O39: only the pending bit is assigned, and nothing but the message is sent. -/
theorem raiseEvent : Obligations.RaiseEvent := fun s k =>
  ⟨eventRaised_raiseEvent s k, onlyBits_raiseEvent s k, (sameRest_raiseEvent s k).eq_of_diag (diag_raiseEvent s k)⟩

/-- Settles O40, by whether the slot is occupied. -/
theorem recordPrimaryFault : Obligations.RecordPrimaryFault := faultTaken_recordPrimaryFault

/-- Settles O41: a fault that is not suppressed is a primary fault with the record words of R486. -/
theorem recordRequestFault : Obligations.RecordRequestFault := by
  refine fun s => ⟨fun f r fpd => ?_, fun f sid index fpd => ?_⟩
  · split_ifs with suppressed
    · exact recordAtFault_suppressed s r suppressed
    · rw [recordAtFault_taken s r suppressed]
      obtain ⟨source, gap, reason, gap', code, read, unset⟩ := atRecordHi_fields s.params f r
      exact ⟨_, _, faultTaken_recordPrimaryFault _ _ _, toNat_atRecordLo r, source, gap, reason, gap',
        (congrArg BitVec.toNat code).trans (toNat_atCode r.atype), read, unset⟩
  · split_ifs with suppressed
    · exact recordIrFault_suppressed s sid index suppressed
    · rw [recordIrFault_taken s sid index suppressed]
      exact ⟨_, _, faultTaken_recordPrimaryFault _ _ _, toNat_irRecordLo index, irRecordHi_fields s.params f sid⟩

end Sys2Proof.Exceptions
end

section
/-! The host's steps (R540 to R546): when a reset or restore is taken, when an image fits the device, and what the registers
are after a restore. -/

namespace Sys2Proof.Machine

/-! ### Values byte by byte -/

/-- Values of at most `n` bytes are equal exactly if their bytes are (R140). -/
theorem eq_iff_byteOf {w n : Nat} (le : w ≤ 8 * n) (u v : BitVec w) : u = v ↔ ∀ k < n, byteOf u k = byteOf v k := by
  refine ⟨fun h _ _ => h ▸ rfl, fun h => BitVec.eq_of_getLsbD_eq fun i hi => ?_⟩
  have bit := congrArg (·.getLsbD (i % 8)) (h (i / 8) (by omega))
  simpa only [byteOf_getLsbD, Nat.mod_lt i (by decide : 8 > 0), decide_true, Bool.true_and, Nat.div_add_mod] using bit

/-- Byte `k` of an 8-byte register read is the register byte at its offset (R240). -/
theorem RegFile.byteOf_read64 (r : RegFile) (off : Nat) {k : Nat} (hk : k < 8) :
    byteOf (r.read64 off) k = r.byte (off + k) := by
  rw [RegFile.read64]
  by_cases low : k < 4
  · rw [← byteOf_low_half _ k low, low_half_append, RegFile.byte_eq_byteOf_read32 _ _ _ low]
  · obtain ⟨j, rfl⟩ : ∃ j, k = 4 + j := ⟨k - 4, by omega⟩
    rw [← byteOf_high_half _ j (by omega), high_half_append, RegFile.byte_eq_byteOf_read32 _ _ _ (by omega), Nat.add_assoc]

theorem RegFile.read32_eq_iff (r : RegFile) (off : Nat) (v : Word32) :
    r.read32 off = v ↔ ∀ k < 4, r.byte (off + k) = byteOf v k :=
  (eq_iff_byteOf (by decide) _ _).trans
    (forall₂_congr fun k hk => by rw [RegFile.byte_eq_byteOf_read32 _ _ _ hk])

theorem RegFile.read64_eq_iff (r : RegFile) (off : Nat) (v : Word64) :
    r.read64 off = v ↔ ∀ k < 8, r.byte (off + k) = byteOf v k :=
  (eq_iff_byteOf (by decide) _ _).trans (forall₂_congr fun k hk => by rw [RegFile.byteOf_read64 _ _ hk])

/-! ### The register file of two blobs -/

theorem groupGet_ofFn_getD {n i : Nat} (blob : List Byte) (hi : i < n) :
    groupGet (Vector.ofFn fun j : Fin n => blob.getD j.val 0) i = blob.getD i 0 := by
  simp [groupGet, List.getD_eq_getElem?_getD, hi]

/-- Group 0 is the first blob (R545). -/
theorem byte_blobRegs_g0 {w : Windows} (g0 g1 : List Byte) {o : Nat} (ho : o < w.g0End) :
    (blobRegs w g0 g1).byte o = g0.getD o 0 :=
  (if_pos ho).trans (groupGet_ofFn_getD g0 ho)

/-- Group 1 is the second blob (R545). -/
theorem byte_blobRegs_g1 {w : Windows} (g0 g1 : List Byte) {o : Nat} (ho : o < w.g1End - w.g1First) :
    (blobRegs w g0 g1).byte (w.g1First + o) = g1.getD o 0 := by
  obtain ⟨-, apart, -⟩ := w.holdMap
  have above : ¬ w.g1First + o < w.g0End := by omega
  calc (blobRegs w g0 g1).byte (w.g1First + o)
      = groupGet (blobRegs w g0 g1).g1 (w.g1First + o - w.g1First) :=
        (if_neg above).trans (if_pos (Nat.le_add_right _ _))
    _ = g1.getD o 0 := by rw [Nat.add_sub_cancel_left]; exact groupGet_ofFn_getD g1 ho

/-! ### The images that fit -/

/-- The capability registers of an image's snapshot are the device's (R545). -/
def RestoreImage.SnapshotSame (p : Params) (img : RestoreImage) : Prop :=
  img.ver = verValue p ∧ img.cap = capValue p ∧ img.ecap = ecapValue p

/-- The sizes of an image's blobs and its offset list are the device's (R545). -/
def RestoreImage.SizesSame (w : Windows) (img : RestoreImage) : Prop :=
  img.g0.length = w.g0End ∧ img.g1.length = w.g1End - w.g1First ∧ img.offs = implOffsets

/-- The bytes of VER, CAP and ECAP in a group-0 blob are the device's (R545, assumption 12). -/
def BlobCaps (p : Params) (g0 : List Byte) : Prop :=
  (∀ k < 4, g0.getD k 0 = byteOf (verValue p) k) ∧ (∀ k < 8, g0.getD (0x008 + k) 0 = byteOf (capValue p) k) ∧
    (∀ k < 8, g0.getD (0x010 + k) 0 = byteOf (ecapValue p) k)

/-- The capability registers lie in group 0, so a restored register file has the bytes of the first blob there (R32). -/
theorem capsHold_blobRegs_iff (p : Params) (w : Windows) (g0 g1 : List Byte) :
    CapsHold p (blobRegs w g0 g1) ↔ BlobCaps p g0 := by
  obtain ⟨group, -⟩ := w.holdMap
  have byte {o : Nat} (ho : o < 0x018) : (blobRegs w g0 g1).byte o = g0.getD o 0 := byte_blobRegs_g0 g0 g1 (by omega)
  rw [CapsHold, RegFile.read32_eq_iff, RegFile.read64_eq_iff, RegFile.read64_eq_iff, BlobCaps]
  refine and_congr ?_ (and_congr ?_ ?_) <;> refine forall₂_congr fun k hk => ?_
  · rw [byte (by omega), Nat.zero_add]
  · rw [byte (by omega)]
  · rw [byte (by omega)]

/-- The model's test of an image: the snapshot, the sizes and the blob's own capability registers (R545). -/
theorem imageFits_iff (p : Params) (w : Windows) (img : RestoreImage) :
    imageFits p w img = true ↔ img.SnapshotSame p ∧ img.SizesSame w ∧ BlobCaps p img.g0 := by
  simp only [imageFits, Bool.and_eq_true, beq_iff_eq, capsMatch_iff, capsHold_blobRegs_iff, RestoreImage.SnapshotSame,
    RestoreImage.SizesSame, and_assoc]

/-! ### The steps -/

/-- The next entry of the schedule, when there is one, is what the step runs (R8). -/
theorem step_of_agenda_eq_cons {s : State} {e : Event} {rest : List Event} (scheduled : s.agenda = e :: rest) :
    step s = runEvent e (s.withAgenda rest) := by
  rw [step, scheduled]

theorem hostStepAllowed_iff (s : State) :
    hostStepAllowed s = true ↔ s.inflight = [] ∧ (s.wphase = .idle ∨ s.wphase = .exited) := by
  simp [hostStepAllowed]

section
variable {s : State}

theorem hostReset_of_busy (busy : ¬ hostStepAllowed s = true) : hostReset s = .refused .hostStepBusy := if_neg busy

theorem hostRestore_of_busy (busy : ¬ hostStepAllowed s = true) (img : RestoreImage) :
    hostRestore s img = .refused .hostStepBusy :=
  if_pos (by simpa using busy)

theorem hostReset_of_allowed (allowed : hostStepAllowed s = true) : hostReset s = .next (resetDevice s) := if_pos allowed

theorem hostRestore_of_fits {img : RestoreImage} (allowed : hostStepAllowed s = true)
    (fits : imageFits s.params s.regs.win img = true) : hostRestore s img = .next (restoreDevice s img) := by
  simp [hostRestore, allowed, fits]

theorem hostRestore_of_misfit {img : RestoreImage} (allowed : hostStepAllowed s = true)
    (misfit : ¬ imageFits s.params s.regs.win img = true) : hostRestore s img = .fault .restoreFailed := by
  simp [hostRestore, allowed, misfit]

end

/-- A reset with nothing in flight is the state right after reset with everything outside the device as it was
(R542, assumption 14). -/
theorem resetDevice_eq {s : State} (empty : s.inflight = []) : resetDevice s = { resetWith s.params s.regs.win with
    mem := s.mem, oracle := s.oracle, agenda := s.agenda, outputs := s.outputs, replies := s.replies } := by
  obtain ⟨⟩ := s
  subst empty
  rfl

/-- What a restore of an image that fits leaves (R545, assumptions 13 and 26). -/
theorem restoreDevice_eq (s : State) (img : RestoreImage) : restoreDevice s img = { s with
    regs := blobRegs s.regs.win img.g0 img.g1, activeRtaddr := img.rt, activeIrta := img.irta, diag := .none,
    wphase := .idle, wakePending := false } := rfl

end Sys2Proof.Machine
end

section
/-! The statement of the reset and hazards family. -/

open Sys2Proof Sys2Proof.Machine

namespace Sys2Proof.ResetAndHazards

/-- Settles O55: the step is the host's entry of the schedule, whose outcome the guard and the test of the image decide. -/
theorem hostSteps : Obligations.HostSteps := by
  refine fun s rest img => ⟨fun scheduled => ?_, fun scheduled busy => ?_, fun empty sleeping => ?_⟩
  · rw [step_of_agenda_eq_cons scheduled]; rfl
  · have notAllowed : ¬ hostStepAllowed (s.withAgenda rest) = true := fun allowed => by
      obtain ⟨empty, sleeping⟩ := (hostStepAllowed_iff _).mp allowed
      exact busy.elim (· empty) fun awake => sleeping.elim awake.1 awake.2
    rcases scheduled with scheduled | scheduled <;> rw [step_of_agenda_eq_cons scheduled]
    · exact hostReset_of_busy notAllowed
    · exact hostRestore_of_busy notAllowed img
  · have allowed : hostStepAllowed (s.withAgenda rest) = true := (hostStepAllowed_iff _).mpr ⟨empty, sleeping⟩
    refine ⟨fun scheduled => ?_, fun scheduled => ?_⟩
    · rw [step_of_agenda_eq_cons scheduled, runEvent, hostReset_of_allowed allowed]
      exact congrArg _ (resetDevice_eq (s := s.withAgenda rest) empty)
    · have run : step s = hostRestore (s.withAgenda rest) img := step_of_agenda_eq_cons scheduled
      have fits_iff := imageFits_iff s.params s.regs.win img
      rw [run]
      refine ⟨fun misfit => ?_, fun misfit => ?_, fun ⟨snapshot, sizes, blob⟩ => ?_⟩
      · refine hostRestore_of_misfit allowed fun fits => ?_
        obtain ⟨snapshot, sizes, -⟩ := fits_iff.mp fits
        exact misfit ⟨snapshot, sizes⟩
      · refine hostRestore_of_misfit allowed fun fits => ?_
        obtain ⟨-, -, blob⟩ := fits_iff.mp fits
        exact misfit blob
      · refine ⟨_, hostRestore_of_fits allowed (fits_iff.mpr ⟨snapshot, sizes, blob⟩), rfl, ?_, ?_,
          restoreDevice_eq _ img⟩
        · exact fun o ho => byte_blobRegs_g0 img.g0 img.g1 ho
        · exact fun o ho => byte_blobRegs_g1 img.g0 img.g1 ho

end Sys2Proof.ResetAndHazards
end
